-- ==== Sys2Proof/Word.lean ====
section
/-!
DEFINITION. The word types of CORE: the 8-bit register and data byte (spec/10_state.md R18,
spec/20_memory.md R44). Addresses, lengths and indexes are `Nat`, kept in range by the operand checks
(spec/30_encoding.md R67, R68) because their widths AW and LW are parameters (spec/00_scope.md R7).
-/

namespace Sys2Proof

/-- A register of the bus engine, or one byte of data memory. -/
abbrev Byte := BitVec 8

end Sys2Proof
end

