-- ==== Sys2Proof/Syntax.lean ====
section
/-!
DEFINITION. The syntax of CORE: bus events, commands, segments, the instruction type `Instr` with one
constructor per row of spec/opcode_table.json, and the moves of the agents (spec/00_scope.md R6, R11).
-/

namespace Sys2Proof

/-- The bus-event type, 30 members (spec/41_status_decoder.md R84). -/
inductive Event where
  | busError | start | repStart
  | ctAddrAck | ctAddrNack | ctDataAck | ctDataNack
  | arbLost
  | crAddrAck | crAddrNack | crDataAck | crDataNack
  | trAddrAck | trArbLostAddrAck | trGcallAck | trArbLostGcallAck
  | trDataAck | trDataNack | trGcallDataAck | trGcallDataNack | trStop
  | ttAddrAck | ttArbLostAddrAck | ttDataAck | ttDataNack | ttLastData
  | noInfo
  | ttAddrNack | trAddrNack
  | unrecognized
  deriving DecidableEq, Repr, Inhabited

/-- The six commands of CMD (spec/30_encoding.md R61). -/
inductive Command where
  | idle | start | stop | data | ack | nack
  deriving DecidableEq, Repr, Inhabited

/-- Where a segment's bytes lie: data memory or the header store (spec/10_state.md R29). -/
inductive Space where
  | mem | hdr
  deriving DecidableEq, Repr, Inhabited

/-- One entry of an IOVector (spec/30_encoding.md R65); `len = 0` makes it a sentinel. -/
structure Segment where
  space : Space
  base : Nat
  len : Nat
  deriving DecidableEq, Repr, Inhabited

/-- The sentinel entry `{MEM, 0, 0}` with which vectors are filled (spec/10_state.md R29). -/
def Segment.sentinel : Segment := ⟨.mem, 0, 0⟩

/-- A notify-target identity, of the parameter type RECIPIENT (spec/00_scope.md R7). DESIGN CHOICE
(log 11): a number below 2^`recipientBits`, a parameter; the block compares it only with
`Recipient.null`. -/
abbrev Recipient := Nat

/-- The distinguished NULL of RECIPIENT (spec/00_scope.md R7). DESIGN CHOICE (log 11): the value 0. -/
def Recipient.null : Recipient := 0

/-- A value of the parameter set SLEEP_MODES, which no rule reads (spec/00_scope.md R7). DESIGN CHOICE
(log 11): a number below 2^`sleepBits`, a parameter. -/
abbrev SleepMode := Nat

/-- The instructions, one constructor per row of spec/opcode_table.json: commands, bus events, host
operations (spec/00_scope.md R11). -/
inductive Instr where
  -- commands written to CMD (spec/40_bus_engine.md R73 to R78)
  | cmdIdle | cmdStart | cmdStop | cmdData | cmdAck | cmdNack
  -- bus events decoded from STATUS (spec/30_encoding.md R59)
  | evBusError | evStart | evRepStart
  | evCtAddrAck | evCtAddrNack | evCtDataAck | evCtDataNack
  | evArbLost
  | evCrAddrAck | evCrAddrNack | evCrDataAck | evCrDataNack
  | evTrAddrAck | evTrArbLostAddrAck | evTrGcallAck | evTrArbLostGcallAck
  | evTrDataAck | evTrDataNack | evTrGcallDataAck | evTrGcallDataNack | evTrStop
  | evTtAddrAck | evTtArbLostAddrAck | evTtDataAck | evTtDataNack | evTtLastData
  | evUnrecognizedD0 | evUnrecognizedD8 | evUnrecognizedE0 | evUnrecognizedE8 | evUnrecognizedF0
  | evNoInfo
  -- the two events with no STATUS code (spec/30_encoding.md R60)
  | evTtAddrNack | evTrAddrNack
  -- host operations (spec/30_encoding.md R67)
  | begin (notify : Recipient) (address : Byte)
  | endOp
  | request (ab : Byte) (vec : List Segment)
  | writeRequest (a : BitVec 7) (buf size : Nat)
  | writeRequestH8 (a : BitVec 7) (header : Byte) (buf size : Nat)
  | writeRequestH16 (a : BitVec 7) (header : BitVec 16) (buf size : Nat)
  | readRequest (a : BitVec 7) (buf size : Nat)
  | awaitCompleted (sleepMode : SleepMode)
  | setWriteBuf (buf size : Nat)
  | setReadBuf (buf size : Nat)
  | dispatch
  deriving DecidableEq, Repr, Inhabited

/-- The three interfaces an instruction arrives through; the interface, not a bit of the value, tells
the formats apart (spec/30_encoding.md R57). -/
inductive Format where
  | cmd | status | hostOp
  deriving DecidableEq, Repr, Inhabited

/-- The interface of each instruction (spec/opcode_table.json, column "format"). -/
def Instr.format : Instr → Format
  | .cmdIdle => .cmd
  | .cmdStart => .cmd
  | .cmdStop => .cmd
  | .cmdData => .cmd
  | .cmdAck => .cmd
  | .cmdNack => .cmd
  | .evBusError => .status
  | .evStart => .status
  | .evRepStart => .status
  | .evCtAddrAck => .status
  | .evCtAddrNack => .status
  | .evCtDataAck => .status
  | .evCtDataNack => .status
  | .evArbLost => .status
  | .evCrAddrAck => .status
  | .evCrAddrNack => .status
  | .evCrDataAck => .status
  | .evCrDataNack => .status
  | .evTrAddrAck => .status
  | .evTrArbLostAddrAck => .status
  | .evTrGcallAck => .status
  | .evTrArbLostGcallAck => .status
  | .evTrDataAck => .status
  | .evTrDataNack => .status
  | .evTrGcallDataAck => .status
  | .evTrGcallDataNack => .status
  | .evTrStop => .status
  | .evTtAddrAck => .status
  | .evTtArbLostAddrAck => .status
  | .evTtDataAck => .status
  | .evTtDataNack => .status
  | .evTtLastData => .status
  | .evUnrecognizedD0 => .status
  | .evUnrecognizedD8 => .status
  | .evUnrecognizedE0 => .status
  | .evUnrecognizedE8 => .status
  | .evUnrecognizedF0 => .status
  | .evNoInfo => .status
  | .evTtAddrNack => .status
  | .evTrAddrNack => .status
  | .begin _ _ => .hostOp
  | .endOp => .hostOp
  | .request _ _ => .hostOp
  | .writeRequest _ _ _ => .hostOp
  | .writeRequestH8 _ _ _ _ => .hostOp
  | .writeRequestH16 _ _ _ _ => .hostOp
  | .readRequest _ _ _ => .hostOp
  | .awaitCompleted _ => .hostOp
  | .setWriteBuf _ _ => .hostOp
  | .setReadBuf _ _ => .hostOp
  | .dispatch => .hostOp

/-- A step some agent may take next (spec/00_scope.md R6, spec/60_exceptions.md R142). -/
inductive Move where
  /-- The sequencer's event step or resume step (spec/42_sequencer_controller.md R88, R90). -/
  | sequencer
  /-- The host's next operation (spec/44_host_operations.md). -/
  | host
  /-- The host writes a byte of its own memory (spec/20_memory.md R50, R54; log 6). -/
  | hostStore (a : Nat) (v : Byte)
  /-- Further operations of a host program with no end arrive at the port (spec/60_exceptions.md R150;
  log 21). -/
  | hostProgram (bs : List Byte)
  /-- The environment raises a bus event with the STATUS and DATA it draws (spec/40_bus_engine.md R79). -/
  | busEvent (s d : Byte)
  /-- The environment clears the stop-pending flag (spec/40_bus_engine.md R80). -/
  | stopClear
  deriving DecidableEq, Repr, Inhabited

/-- What may be given to the machine as its next turn: an agent's move, or a mock's write of CMD from
outside the block (spec/30_encoding.md R62; log 16). -/
inductive Turn where
  | agent (m : Move)
  | mockCommand (c : Byte)
  deriving DecidableEq, Repr, Inhabited

end Sys2Proof
end

