-- ==== Sys2Proof/Config.lean ====
section
/-!
DEFINITION. The implementation parameters of spec/00_scope.md R7 and the free values of the model.
A machine carries its `Params` in its state and no step writes them (log 12), so a statement about
every state holds for every setting of the parameters.
-/

namespace Sys2Proof

/-- DIV_VALUE, the value `begin` writes to DIV; spec/00_scope.md R7 gives no default, so it is a free
value (log 12). -/
opaque Config.divValue : Byte

/-- The agent whose turn is next when none is given from outside, by the index of the draw: any
enabled step may be taken next, and the environment's STATUS and DATA are drawn under no law
(spec/60_exceptions.md R142, spec/40_bus_engine.md R79; log 5). A free value: nothing constrains it. -/
opaque Config.freeMove : Nat → Move

/-- The default STATUS_MAP: the event of each CODE 0 to 31 (spec/30_encoding.md R59). -/
def Config.statusMap : List Event :=
  [.busError, .start, .repStart, .ctAddrAck, .ctAddrNack, .ctDataAck, .ctDataNack, .arbLost] ++
  [.crAddrAck, .crAddrNack, .crDataAck, .crDataNack] ++
  [.trAddrAck, .trArbLostAddrAck, .trGcallAck, .trArbLostGcallAck] ++
  [.trDataAck, .trDataNack, .trGcallDataAck, .trGcallDataNack, .trStop] ++
  [.ttAddrAck, .ttArbLostAddrAck, .ttDataAck, .ttDataNack, .ttLastData] ++
  [.unrecognized, .unrecognized, .unrecognized, .unrecognized, .unrecognized, .noInfo]

/-- The parameters of spec/00_scope.md R7, and one of the model's own. -/
structure Params where
  /-- N (IOV_SEGMENTS); a vector holds N + 1 entries. -/
  n : Nat
  /-- AW, width of a data-memory address. -/
  aw : Nat
  /-- LW, width of a segment length. -/
  lw : Nat
  /-- CW, width of the signed count. -/
  cw : Nat
  /-- COUNT_MAX, the largest byte count of a transfer. -/
  countMax : Nat
  /-- DIV_VALUE. -/
  divValue : Byte
  /-- SLEEP_MODES, by the width of its values (log 11). -/
  sleepBits : Nat
  /-- STATUS_MAP, indexed by CODE. -/
  statusMap : List Event
  /-- RECIPIENT, by the width of its values (log 11). -/
  recipientBits : Nat
  /-- The model's own, not of R7: whether a receive event whose walk stands in the header store writes
  it. spec/42_sequencer_controller.md R101 says so (true), spec/10_state.md R34 and
  spec/60_exceptions.md R153 deny it (false), and no ruling decides; both are settings (log 24). -/
  receiveWritesHdr : Bool
  deriving DecidableEq, Repr

/-- The settings spec/00_scope.md R7 admits: N at least 2, a map of all 32 codes (R59), COUNT_MAX
within the signed count (R8), and a header length of 2 expressible (LW at least 2; R66). Every other
parameter takes any value (log 12). -/
abbrev Params.wf (p : Params) : Prop :=
  2 ≤ p.n ∧ 2 ≤ p.lw ∧ 1 ≤ p.cw ∧ p.countMax < 2 ^ (p.cw - 1) ∧ p.statusMap.length = 32

/-- The defaults of spec/00_scope.md R7. It gives none for DIV_VALUE, which is a free value (log 12), nor
for SLEEP_MODES and RECIPIENT: DESIGN CHOICE, 8 and 16 bits (log 11). DESIGN CHOICE (log 24): a receive
event writes the header store it stands in, as its own rule says. -/
def Params.default : Params where
  n := 2
  aw := 16
  lw := 16
  cw := 16
  countMax := 2 ^ (16 - 1) - 1
  divValue := Config.divValue
  sleepBits := 8
  statusMap := Config.statusMap
  recipientBits := 16
  receiveWritesHdr := true

end Sys2Proof
end

