-- ==== Sys2Proof/WellFormed.lean ====
section
/-!
DEFINITION. Which instructions are spelled by the operand types of spec/30_encoding.md R67 and R68:
every address, length, notify target and sleep mode inside its width, a vector of 1 to N + 1 entries.
Operands whose Lean type already has the spec's width need no check.
-/

namespace Sys2Proof

/-- An operand of width `w`. -/
def inWidth (w v : Nat) : Bool := decide (v < 2 ^ w)

/-- A `buf` (AW) and `size` (LW) operand pair (spec/30_encoding.md R67). -/
def bufWellFormed (p : Params) (buf size : Nat) : Bool := inWidth p.aw buf && inWidth p.lw size

/-- An entry of a vector operand (spec/30_encoding.md R65). -/
def Segment.wellFormed (p : Params) (e : Segment) : Bool := bufWellFormed p e.base e.len

/-- A vector operand: 1 to N + 1 entries (spec/30_encoding.md R65, R68). -/
def vecWellFormed (p : Params) (vec : List Segment) : Bool :=
  decide (1 ≤ vec.length) && decide (vec.length ≤ p.n + 1) && vec.all (Segment.wellFormed p)

/-- The instruction is one the operand types admit (spec/30_encoding.md R68). -/
def Instr.wellFormed (p : Params) : Instr → Bool
  | .request _ vec => vecWellFormed p vec
  | .writeRequest _ buf size => bufWellFormed p buf size
  | .writeRequestH8 _ _ buf size => bufWellFormed p buf size
  | .writeRequestH16 _ _ buf size => bufWellFormed p buf size
  | .readRequest _ buf size => bufWellFormed p buf size
  | .setWriteBuf buf size => bufWellFormed p buf size
  | .setReadBuf buf size => bufWellFormed p buf size
  | .begin notify _ => inWidth p.recipientBits notify
  | .endOp => true
  | .awaitCompleted mode => inWidth p.sleepBits mode
  | .dispatch => true
  | .cmdIdle => true
  | .cmdStart => true
  | .cmdStop => true
  | .cmdData => true
  | .cmdAck => true
  | .cmdNack => true
  | .evBusError => true
  | .evStart => true
  | .evRepStart => true
  | .evCtAddrAck => true
  | .evCtAddrNack => true
  | .evCtDataAck => true
  | .evCtDataNack => true
  | .evArbLost => true
  | .evCrAddrAck => true
  | .evCrAddrNack => true
  | .evCrDataAck => true
  | .evCrDataNack => true
  | .evTrAddrAck => true
  | .evTrArbLostAddrAck => true
  | .evTrGcallAck => true
  | .evTrArbLostGcallAck => true
  | .evTrDataAck => true
  | .evTrDataNack => true
  | .evTrGcallDataAck => true
  | .evTrGcallDataNack => true
  | .evTrStop => true
  | .evTtAddrAck => true
  | .evTtArbLostAddrAck => true
  | .evTtDataAck => true
  | .evTtDataNack => true
  | .evTtLastData => true
  | .evUnrecognizedD0 => true
  | .evUnrecognizedD8 => true
  | .evUnrecognizedE0 => true
  | .evUnrecognizedE8 => true
  | .evUnrecognizedF0 => true
  | .evNoInfo => true
  | .evTtAddrNack => true
  | .evTrAddrNack => true

end Sys2Proof
end

