-- ==== Sys2Proof/Decode.lean ====
section
/-!
DEFINITION. The three decoders (commands, bus status, host operations; spec/30_encoding.md R57), then
the encoder written from the same tables, then the reading of an opcode-table word.
Commands and status codes are one byte each. A host operation is its opcode and then its operands in
the order of spec/30_encoding.md R67; DESIGN CHOICE (log 2): each operand takes the whole bytes its
width needs, most significant byte first, an entry's space is a byte (0 MEM, 1 HDR), and each entry of
a vector is followed by a byte that says whether another follows (0 no, 1 yes).
-/

namespace Sys2Proof

/-- Why bytes spell no instruction (spec/60_exceptions.md R148, refusals). -/
inductive DecodeError where
  /-- A host opcode of spec/30_encoding.md R68. -/
  | reservedOpcode
  /-- An operand outside its width or list length (spec/30_encoding.md R68). -/
  | operandRange
  /-- A reserved CMD value (spec/30_encoding.md R62). -/
  | reservedCmd
  /-- The bytes end inside an operation (log 19). -/
  | incomplete
  deriving DecidableEq, Repr

/-! ## Commands -/

/-- The CMD value of a command (spec/30_encoding.md R61). -/
def Command.code : Command → Byte
  | .idle => 0x00
  | .start => 0x01
  | .stop => 0x02
  | .data => 0x03
  | .ack => 0x04
  | .nack => 0x05

/-- The command a CMD value spells; every other value is reserved (spec/30_encoding.md R61, R62). -/
def decodeCommand (b : Byte) : Except DecodeError Instr :=
  match b.toNat with
  | 0 => .ok .cmdIdle
  | 1 => .ok .cmdStart
  | 2 => .ok .cmdStop
  | 3 => .ok .cmdData
  | 4 => .ok .cmdAck
  | 5 => .ok .cmdNack
  | _ => .error .reservedCmd

/-! ## Bus status -/

/-- CODE, the field STATUS[7:3] (spec/10_state.md R19). -/
def statusCode (status : Byte) : BitVec 5 := status.extractLsb' 3 5

/-- `DECODE`: the event STATUS_MAP gives a code (spec/41_status_decoder.md R85). -/
def decodeEvent (p : Params) (code : BitVec 5) : Event :=
  p.statusMap.getD code.toNat .unrecognized

/-- The instruction of an event. UNRECOGNIZED has one row per code; a code other than the table's own
five takes the row of 0xD0, all five rows acting alike (spec/43_sequencer_target.md R127; log 15). -/
def Event.instr (code : BitVec 5) : Event → Instr
  | .busError => .evBusError
  | .start => .evStart
  | .repStart => .evRepStart
  | .ctAddrAck => .evCtAddrAck
  | .ctAddrNack => .evCtAddrNack
  | .ctDataAck => .evCtDataAck
  | .ctDataNack => .evCtDataNack
  | .arbLost => .evArbLost
  | .crAddrAck => .evCrAddrAck
  | .crAddrNack => .evCrAddrNack
  | .crDataAck => .evCrDataAck
  | .crDataNack => .evCrDataNack
  | .trAddrAck => .evTrAddrAck
  | .trArbLostAddrAck => .evTrArbLostAddrAck
  | .trGcallAck => .evTrGcallAck
  | .trArbLostGcallAck => .evTrArbLostGcallAck
  | .trDataAck => .evTrDataAck
  | .trDataNack => .evTrDataNack
  | .trGcallDataAck => .evTrGcallDataAck
  | .trGcallDataNack => .evTrGcallDataNack
  | .trStop => .evTrStop
  | .ttAddrAck => .evTtAddrAck
  | .ttArbLostAddrAck => .evTtArbLostAddrAck
  | .ttDataAck => .evTtDataAck
  | .ttDataNack => .evTtDataNack
  | .ttLastData => .evTtLastData
  | .noInfo => .evNoInfo
  | .ttAddrNack => .evTtAddrNack
  | .trAddrNack => .evTrAddrNack
  | .unrecognized =>
    match code.toNat with
    | 27 => .evUnrecognizedD8
    | 28 => .evUnrecognizedE0
    | 29 => .evUnrecognizedE8
    | 30 => .evUnrecognizedF0
    | _ => .evUnrecognizedD0

/-- The instruction a STATUS value spells; every value spells one (spec/41_status_decoder.md R85). -/
def decodeStatus (p : Params) (status : Byte) : Instr :=
  (decodeEvent p (statusCode status)).instr (statusCode status)

/-! ## Host operations -/

/-- The whole bytes an operand of width `w` takes on the host port (log 2). -/
def bytesFor (w : Nat) : Nat := (w + 7) / 8

/-- `k` bytes as a number, most significant first, after the digits `acc` (log 2). -/
def takeBE : Nat → Nat → List Byte → Except DecodeError (Nat × List Byte)
  | 0, acc, bs => .ok (acc, bs)
  | _ + 1, _, [] => .error .incomplete
  | k + 1, acc, b :: bs => takeBE k (acc * 256 + b.toNat) bs

/-- An operand of width `w` (spec/30_encoding.md R67); a value outside the width spells no operation
(R68). -/
def takeOperand (w : Nat) (bs : List Byte) : Except DecodeError (Nat × List Byte) :=
  match takeBE (bytesFor w) 0 bs with
  | .error e => .error e
  | .ok (v, rest) => if inWidth w v then .ok (v, rest) else .error .operandRange

/-- The space byte of a vector entry (spec/30_encoding.md R65; log 2). -/
def spaceOf : Nat → Option Space
  | 0 => some .mem
  | 1 => some .hdr
  | _ => none

/-- A `buf` operand (AW) and a `size` operand (LW) (spec/30_encoding.md R67). -/
def takeBuf (p : Params) (bs : List Byte) : Except DecodeError ((Nat × Nat) × List Byte) :=
  match takeOperand p.aw bs with
  | .error e => .error e
  | .ok (buf, bs) =>
    match takeOperand p.lw bs with
    | .error e => .error e
    | .ok (size, bs) => .ok ((buf, size), bs)

/-- One vector entry (spec/30_encoding.md R65). -/
def takeSegment (p : Params) (bs : List Byte) : Except DecodeError (Segment × List Byte) :=
  match takeOperand 8 bs with
  | .error e => .error e
  | .ok (sp, bs) =>
    match spaceOf sp with
    | none => .error .operandRange
    | some space =>
      match takeBuf p bs with
      | .error e => .error e
      | .ok ((base, len), bs) => .ok (⟨space, base, len⟩, bs)

/-- A vector of 1 to `k` entries; a vector that goes on past `k` entries spells no operation
(spec/30_encoding.md R68). -/
def takeVector (p : Params) : Nat → List Byte → Except DecodeError (List Segment × List Byte)
  | 0, _ => .error .operandRange
  | k + 1, bs =>
    match takeSegment p bs with
    | .error e => .error e
    | .ok (e, bs) =>
      match takeOperand 8 bs with
      | .error e => .error e
      | .ok (0, bs) => .ok ([e], bs)
      | .ok (1, bs) =>
        match takeVector p k bs with
        | .error e => .error e
        | .ok (es, bs) => .ok (e :: es, bs)
      | .ok (_ + 2, _) => .error .operandRange

/-- The operands of `begin`: `notify` (RECIPIENT), `address` (8 bits). -/
def decodeBegin (p : Params) (bs : List Byte) : Except DecodeError (Instr × List Byte) :=
  match takeOperand p.recipientBits bs with
  | .error e => .error e
  | .ok (notify, bs) =>
    match takeOperand 8 bs with
    | .error e => .error e
    | .ok (a, bs) => .ok (.begin notify (BitVec.ofNat 8 a), bs)

/-- The operands of `request`: `ab` (8 bits), then a vector of 1 to N + 1 entries. -/
def decodeRequest (p : Params) (bs : List Byte) : Except DecodeError (Instr × List Byte) :=
  match takeOperand 8 bs with
  | .error e => .error e
  | .ok (ab, bs) =>
    match takeVector p (p.n + 1) bs with
    | .error e => .error e
    | .ok (vec, bs) => .ok (.request (BitVec.ofNat 8 ab) vec, bs)

/-- The operands `a` (7 bits), `buf`, `size`, given to `mk`. -/
def decodeTransfer (p : Params) (mk : BitVec 7 → Nat → Nat → Instr) (bs : List Byte) :
    Except DecodeError (Instr × List Byte) :=
  match takeOperand 7 bs with
  | .error e => .error e
  | .ok (a, bs) =>
    match takeBuf p bs with
    | .error e => .error e
    | .ok ((buf, size), bs) => .ok (mk (BitVec.ofNat 7 a) buf size, bs)

/-- The operands `a` (7 bits), `header` (`w` bits), `buf`, `size`, given to `mk`. -/
def decodeHeaderTransfer (p : Params) (w : Nat) (mk : BitVec 7 → BitVec w → Nat → Nat → Instr)
    (bs : List Byte) : Except DecodeError (Instr × List Byte) :=
  match takeOperand 7 bs with
  | .error e => .error e
  | .ok (a, bs) =>
    match takeOperand w bs with
    | .error e => .error e
    | .ok (h, bs) =>
      match takeBuf p bs with
      | .error e => .error e
      | .ok ((buf, size), bs) => .ok (mk (BitVec.ofNat 7 a) (BitVec.ofNat w h) buf size, bs)

/-- The operand of `await_completed`: `sleepMode` (SLEEP_MODES). -/
def decodeAwait (p : Params) (bs : List Byte) : Except DecodeError (Instr × List Byte) :=
  match takeOperand p.sleepBits bs with
  | .error e => .error e
  | .ok (m, bs) => .ok (.awaitCompleted m, bs)

/-- The operands `buf`, `size`, given to `mk`. -/
def decodeSlot (p : Params) (mk : Nat → Nat → Instr) (bs : List Byte) :
    Except DecodeError (Instr × List Byte) :=
  match takeBuf p bs with
  | .error e => .error e
  | .ok ((buf, size), bs) => .ok (mk buf size, bs)

/-- The first host operation of the bytes, and the bytes after it (spec/30_encoding.md R67, R68). -/
def decodeHostOp (p : Params) : List Byte → Except DecodeError (Instr × List Byte)
  | [] => .error .incomplete
  | op :: bs =>
    match op.toNat with
    | 0x01 => decodeBegin p bs
    | 0x02 => .ok (.endOp, bs)
    | 0x03 => decodeRequest p bs
    | 0x04 => decodeTransfer p .writeRequest bs
    | 0x05 => decodeHeaderTransfer p 8 .writeRequestH8 bs
    | 0x06 => decodeHeaderTransfer p 16 .writeRequestH16 bs
    | 0x07 => decodeTransfer p .readRequest bs
    | 0x08 => decodeAwait p bs
    | 0x09 => decodeSlot p .setWriteBuf bs
    | 0x0A => decodeSlot p .setReadBuf bs
    | 0x0B => .ok (.dispatch, bs)
    | _ => .error .reservedOpcode

/-- The first instruction of the bytes that arrive through an interface (spec/30_encoding.md R57). -/
def decode (p : Params) : Format → List Byte → Except DecodeError (Instr × List Byte)
  | .hostOp, bs => decodeHostOp p bs
  | .status, b :: bs => .ok (decodeStatus p b, bs)
  | .status, [] => .error .incomplete
  | .cmd, [] => .error .incomplete
  | .cmd, b :: bs =>
    match decodeCommand b with
    | .error e => .error e
    | .ok i => .ok (i, bs)

/-! ## The encoder -/

/-- The `k` low bytes of a number, most significant first (log 2). -/
def putBE : Nat → Nat → List Byte
  | 0, _ => []
  | k + 1, v => BitVec.ofNat 8 (v / 256 ^ k) :: putBE k v

/-- An operand of width `w`. -/
def putOperand (w v : Nat) : List Byte := putBE (bytesFor w) v

/-- The space byte of a vector entry. -/
def Space.code : Space → Nat
  | .mem => 0
  | .hdr => 1

/-- A `buf` and a `size` operand. -/
def putBuf (p : Params) (buf size : Nat) : List Byte := putOperand p.aw buf ++ putOperand p.lw size

/-- One vector entry. -/
def putSegment (p : Params) (e : Segment) : List Byte :=
  putOperand 8 e.space.code ++ putBuf p e.base e.len

/-- An entry that another one follows. -/
def putMore (p : Params) (e : Segment) : List Byte := putSegment p e ++ [0x01]

/-- The vector entries in index order, the last one marked so. A vector has at least one entry. -/
def putVector (p : Params) : List Segment → List Byte
  | [] => []
  | [e] => putSegment p e ++ [0x00]
  | e :: es => putMore p e ++ putVector p es

/-- The bytes of an instruction under the default STATUS_MAP (spec/30_encoding.md R59, R61, R67). The
two target address-NACK events have no code and no bytes (R60). -/
def encode (p : Params) : Instr → List Byte
  | .cmdIdle => [0x00]
  | .cmdStart => [0x01]
  | .cmdStop => [0x02]
  | .cmdData => [0x03]
  | .cmdAck => [0x04]
  | .cmdNack => [0x05]
  | .evBusError => [0x00]
  | .evStart => [0x08]
  | .evRepStart => [0x10]
  | .evCtAddrAck => [0x18]
  | .evCtAddrNack => [0x20]
  | .evCtDataAck => [0x28]
  | .evCtDataNack => [0x30]
  | .evArbLost => [0x38]
  | .evCrAddrAck => [0x40]
  | .evCrAddrNack => [0x48]
  | .evCrDataAck => [0x50]
  | .evCrDataNack => [0x58]
  | .evTrAddrAck => [0x60]
  | .evTrArbLostAddrAck => [0x68]
  | .evTrGcallAck => [0x70]
  | .evTrArbLostGcallAck => [0x78]
  | .evTrDataAck => [0x80]
  | .evTrDataNack => [0x88]
  | .evTrGcallDataAck => [0x90]
  | .evTrGcallDataNack => [0x98]
  | .evTrStop => [0xA0]
  | .evTtAddrAck => [0xA8]
  | .evTtArbLostAddrAck => [0xB0]
  | .evTtDataAck => [0xB8]
  | .evTtDataNack => [0xC0]
  | .evTtLastData => [0xC8]
  | .evUnrecognizedD0 => [0xD0]
  | .evUnrecognizedD8 => [0xD8]
  | .evUnrecognizedE0 => [0xE0]
  | .evUnrecognizedE8 => [0xE8]
  | .evUnrecognizedF0 => [0xF0]
  | .evNoInfo => [0xF8]
  | .evTtAddrNack => []
  | .evTrAddrNack => []
  | .begin notify a => 0x01 :: (putOperand p.recipientBits notify ++ putOperand 8 a.toNat)
  | .endOp => [0x02]
  | .request ab vec => 0x03 :: (putOperand 8 ab.toNat ++ putVector p vec)
  | .writeRequest a buf size => 0x04 :: (putOperand 7 a.toNat ++ putBuf p buf size)
  | .writeRequestH8 a h buf size =>
    0x05 :: (putOperand 7 a.toNat ++ (putOperand 8 h.toNat ++ putBuf p buf size))
  | .writeRequestH16 a h buf size =>
    0x06 :: (putOperand 7 a.toNat ++ (putOperand 16 h.toNat ++ putBuf p buf size))
  | .readRequest a buf size => 0x07 :: (putOperand 7 a.toNat ++ putBuf p buf size)
  | .awaitCompleted m => 0x08 :: putOperand p.sleepBits m
  | .setWriteBuf buf size => 0x09 :: putBuf p buf size
  | .setReadBuf buf size => 0x0A :: putBuf p buf size
  | .dispatch => [0x0B]

/-! ## Words of the opcode table -/

/-- The bytes of a table word, bits 7:0 first, then zero operand bytes for the longest instruction of
the default parameters. -/
def tableBytes (nbits w : Nat) : List Byte :=
  (List.range (max 1 (bytesFor nbits))).map (fun k => BitVec.ofNat 8 (w / 256 ^ k)) ++
    List.replicate 20 0

/-- The interface a table word is read on. The table numbers three interfaces with overlapping words
and a word does not say which is meant (spec/30_encoding.md R57). DESIGN CHOICE (log 3): the host port
if the row is wider than a byte or the byte is a host opcode the table gives in one byte; else CMD if
the byte is a command; else STATUS. -/
def tableFormat (nbits w : Nat) : Format :=
  if 8 < nbits then .hostOp
  else if w % 256 = 2 ∨ (4 ≤ w % 256 ∧ w % 256 ≤ 11) then .hostOp
  else if w % 256 ≤ 5 then .cmd
  else .status

/-- The instruction this decoder reads from a table word (log 3). -/
def decodeTableWord (nbits w : Nat) : Option Instr :=
  match decode Params.default (tableFormat nbits w) (tableBytes nbits w) with
  | .ok (i, _) => some i
  | .error _ => none

end Sys2Proof
end

