-- ==== Sys2Proof/Machine/State.lean ====
section
/-!
DEFINITION. The state of CORE as plain data (spec/10_state.md R15, spec/20_memory.md R43), why a step
can stop, and the state after reset (spec/70_reset_and_hazards.md R159).
-/

namespace Sys2Proof.Machine

/-- `role` (spec/10_state.md R26). -/
inductive Role where
  | none | controllerTransmit | controllerReceive | targetTransmit | targetReceive
  deriving DecidableEq, Repr

/-- `lifecycle` (spec/10_state.md R27). -/
inductive Lifecycle where
  | idle | active | error
  deriving DecidableEq, Repr

/-- What the sequencer does once the stop condition has cleared (spec/42_sequencer_controller.md R90). -/
inductive Continuation where
  | kIdle | kError | kTrDone
  deriving DecidableEq, Repr

/-- `phase` (spec/10_state.md R38). -/
inductive Phase where
  | ready
  | waitStop (k : Continuation)
  deriving DecidableEq, Repr

/-- The reasons `raise Fault` records (spec/60_exceptions.md R148). -/
inductive FaultReason where
  | bufferOverrun | hostContractVec | hostContractEndActive | hostContractBuf | notifyOverrun
  deriving DecidableEq, Repr

/-- A READ or WRITE slot (spec/10_state.md R35). -/
structure Slot where
  base : Nat
  len : Nat
  deriving DecidableEq, Repr

/-- The notification slot (spec/10_state.md R37). -/
structure Notification where
  full : Bool
  recipient : Recipient
  count : Int
  deriving DecidableEq, Repr

/-- A record of `host_log` (spec/10_state.md R41). -/
inductive HostRecord where
  /-- The result of an operation that returns a bool. -/
  | result (b : Bool)
  /-- The record of an operation with no result. -/
  | none
  /-- The result of `await_completed`. -/
  | count (c : Int)
  /-- A delivery made by `dispatch`. -/
  | onRequest (r : Recipient) (buffer : Nat) (size : Int)
  deriving DecidableEq, Repr

/-- Data memory: the listed bytes, addresses rising; an unlisted address reads as `memUnlisted` says. -/
abbrev Memory := List Host.Cell

/-- The state of the machine. The fields of spec/10_state.md, data memory, and six fields of the
model's own (`params`, `port`, `awaiting`, `endless`, `turns`, `tick`). -/
structure State where
  /-- The implementation parameters; no step writes them (spec/00_scope.md R7; log 12). -/
  params : Params
  -- bus-engine registers (R18)
  status : Byte
  cmd : Byte
  data : Byte
  taddr : Byte
  div : Byte
  ctrl : Byte
  flags : Byte
  -- transaction state (R26 to R33)
  role : Role
  lifecycle : Lifecycle
  address : Byte
  iov : List Segment
  segmentIndex : Nat
  cursor : Nat
  curSpace : Space
  limit : Nat
  transferredCount : Int
  lastEvent : BitVec 5
  -- header store (R34)
  hdr0 : Byte
  hdr1 : Byte
  -- target-role state (R35, R36)
  readSlot : Slot
  writeSlot : Slot
  notifyTarget : Recipient
  ownAddress : BitVec 7
  -- notification slot, phase, fault record (R37 to R39)
  nslot : Notification
  phase : Phase
  fault : Option FaultReason
  -- observation logs (R40, R41)
  busLog : List (Command × Byte)
  hostLog : List HostRecord
  /-- Data memory (spec/20_memory.md R43). -/
  mem : Memory
  /-- Bytes of the host operations not yet taken (log 4). -/
  port : List Byte
  /-- Whether the host has called the `await_completed` at the port and has not returned from it
  (spec/00_scope.md R10, spec/44_host_operations.md R136; log 22). -/
  awaiting : Bool
  /-- Whether the host's program has no end, so that further operations arrive at an empty port
  (spec/60_exceptions.md R150; log 21). -/
  endless : Bool
  /-- The turns given from outside, next first; when empty the turn is a free value (log 5). -/
  turns : List Turn
  /-- The index of the next free turn (log 5). -/
  tick : Nat
  deriving DecidableEq, Repr

/-- Why a step stops with a fault. -/
inductive Fault where
  /-- Raised by `step` in a state whose `fault` field holds `r`: no agent has an enabled step any more
  (spec/60_exceptions.md R149). Safe: nothing is proved of what a stopped block does. -/
  | stopped (r : FaultReason)
  /-- Raised by an access to data memory at an address of 2^AW or more, which spec/20_memory.md R44
  says does not exist. Safe; the invariant `Inv` rules it out (log 10). -/
  | outsideDataMemory
  /-- Raised by an access to the header store at an index other than 0 and 1 (spec/10_state.md R34).
  Safe; the invariant `Inv` rules it out (log 10). -/
  | outsideHeaderStore
  deriving DecidableEq, Repr

/-- Why an instruction is refused. -/
inductive Refusal where
  /-- Raised by an arm of `exec` whose instruction has no meaning yet. Safe. -/
  | notModelled (mnemonic : String)
  /-- RESERVED_OPCODE, raised by the host's turn on a reserved opcode (spec/60_exceptions.md R148). Safe. -/
  | reservedOpcode
  /-- OPERAND_RANGE, raised by the host's turn on an operand outside its width or list length
  (spec/60_exceptions.md R148). Safe. -/
  | operandRange
  /-- RESERVED_CMD, raised when CMD is driven from outside with a reserved value
  (spec/60_exceptions.md R148). Safe. -/
  | reservedCmd
  /-- Raised by the host's turn when the port's bytes end inside an operation (log 19). Safe. -/
  | incompleteOperation
  deriving DecidableEq, Repr

/-- What an instruction's meaning answers. -/
abbrev Result := Host.Outcome State Fault Refusal

/-- The machine with parameters `p` right after reset (spec/70_reset_and_hazards.md R159); data memory
lists nothing (log 1). -/
def State.resetWith (p : Params) : State where
  params := p
  status := 0xF8
  cmd := 0x00
  data := 0x00
  taddr := 0x00
  div := 0x00
  ctrl := 0x00
  flags := 0x00
  role := .none
  lifecycle := .idle
  address := 0x00
  iov := List.replicate (p.n + 1) Segment.sentinel
  segmentIndex := 0
  cursor := 0
  curSpace := .mem
  limit := 0
  transferredCount := 0
  lastEvent := 31
  hdr0 := 0x00
  hdr1 := 0x00
  readSlot := ⟨0, 0⟩
  writeSlot := ⟨0, 0⟩
  notifyTarget := Recipient.null
  ownAddress := 0
  nslot := ⟨false, Recipient.null, 0⟩
  phase := .ready
  fault := none
  busLog := []
  hostLog := []
  mem := []
  port := []
  awaiting := false
  endless := false
  turns := []
  tick := 0

/-- The machine right after reset with the default parameters (spec/00_scope.md R7; log 12). -/
def State.reset : State := State.resetWith Params.default

end Sys2Proof.Machine
end

