-- ==== Sys2Proof/Machine/Flags.lean ====
section
/-!
DEFINITION. The fields of FLAGS and CTRL, the interrupt request, and the encoded values of `role`,
`lifecycle` and the fault reasons (spec/10_state.md R24 to R27, spec/40_bus_engine.md R83,
spec/30_encoding.md R71).
-/

namespace Sys2Proof.Machine

/-- FLAGS from its two flags; FLAGS[7:2] is 0 (spec/10_state.md R25). -/
def flagsWord (intf stopp : Bool) : Byte :=
  (if intf then 0x01 else 0x00) ||| (if stopp then 0x02 else 0x00)

/-- INTF, event pending: FLAGS[0]. -/
def flagIntf (flags : Byte) : Bool := flags.getLsbD 0

/-- STOPP, stop pending: FLAGS[1]. -/
def flagStopp (flags : Byte) : Bool := flags.getLsbD 1

/-- CTRL from its three bits; CTRL[7:3] is written 0 (spec/10_state.md R24). -/
def ctrlWord (en ie pullup : Bool) : Byte :=
  (if en then 0x01 else 0x00) ||| (if ie then 0x02 else 0x00) ||| (if pullup then 0x04 else 0x00)

/-- EN, engine enable: CTRL[0]. -/
def ctrlEn (ctrl : Byte) : Bool := ctrl.getLsbD 0

/-- IE, interrupt enable: CTRL[1]. -/
def ctrlIe (ctrl : Byte) : Bool := ctrl.getLsbD 1

/-- PULLUP, bus pull-up enable: CTRL[2]. -/
def ctrlPullup (ctrl : Byte) : Bool := ctrl.getLsbD 2

/-- IRQ, the interrupt request (spec/40_bus_engine.md R83). -/
def irq (s : State) : Bool := flagIntf s.flags && ctrlEn s.ctrl && ctrlIe s.ctrl

/-- The 3-bit value of `role` (spec/10_state.md R26). -/
def roleCode : Role → BitVec 3
  | .none => 0
  | .controllerTransmit => 1
  | .controllerReceive => 2
  | .targetTransmit => 3
  | .targetReceive => 4

/-- The signed value of `lifecycle` (spec/10_state.md R27). -/
def lifecycleCode : Lifecycle → Int
  | .error => -1
  | .idle => 0
  | .active => 1

/-- The code of a fault reason (spec/60_exceptions.md R148). -/
def faultCode : FaultReason → Nat
  | .bufferOverrun => 1
  | .hostContractVec => 2
  | .hostContractEndActive => 3
  | .hostContractBuf => 4
  | .notifyOverrun => 5

/-- A register as the register map names it by offset, for a mock's inspection
(spec/10_state.md R18; spec/60_exceptions.md R155). Reading changes nothing (spec/20_memory.md R47). -/
def registerAt (offset : Nat) (s : State) : Option Byte :=
  match offset with
  | 0 => some s.status
  | 1 => some s.cmd
  | 2 => some s.data
  | 3 => some s.taddr
  | 4 => some s.div
  | 5 => some s.ctrl
  | 6 => some s.flags
  | _ => none

/-- `transferred_count + 1` in signed CW-bit two's complement (spec/00_scope.md R8; log 8). -/
def countSucc (p : Params) (c : Int) : Int := (c + 1).bmod (2 ^ p.cw)

end Sys2Proof.Machine
end

