-- ==== Sys2Proof/Machine/Operands.lean ====
section
/-!
DEFINITION. The operand forms of the host operations: address bytes, the target-address filter value,
vectors and the host contracts on them (spec/30_encoding.md R63 to R66, spec/44_host_operations.md
R130, R137).
-/

namespace Sys2Proof.Machine

/-- The address byte `a[6:0] ++ rw` (spec/30_encoding.md R63). -/
def addressByte (a : BitVec 7) (rw : Bool) : Byte := a ++ BitVec.ofBool rw

/-- The direction bit AB[0]: set for a read (spec/30_encoding.md R63). -/
def directionBit (ab : Byte) : Bool := ab.getLsbD 0

/-- The TADDR value that arms the filter for an address: ADDR in bits 7:1, GCE 0
(spec/30_encoding.md R64). -/
def filterValue (a : BitVec 7) : Byte := a ++ (0 : BitVec 1)

/-- The active entries of a vector: those before the first sentinel (spec/10_state.md R29). -/
def activeSegments (vec : List Segment) : List Segment := vec.takeWhile (fun e => e.len != 0)

/-- The bytes a vector asks to transfer: the sum over its active entries. -/
def activeTotal (vec : List Segment) : Nat := ((activeSegments vec).map Segment.len).sum

/-- An entry a host may give: in data memory and inside the address space (spec/44_host_operations.md
R130). -/
def hostSegmentOk (p : Params) (e : Segment) : Bool :=
  decide (e.space = .mem) && decide (e.base + e.len ≤ 2 ^ p.aw)

/-- `well_formed(vec)`, the host contract on a vector of 1 to N + 1 entries (spec/44_host_operations.md
R130). -/
def vecContract (p : Params) (vec : List Segment) : Bool :=
  vec.all (hostSegmentOk p) && vec.any (fun e => e.len == 0) && decide (activeTotal vec ≤ p.countMax)

/-- The payload vector of `write_request` and `read_request` (spec/30_encoding.md R66). -/
def payloadVec (buf size : Nat) : List Segment := [⟨.mem, buf, size⟩, Segment.sentinel]

/-- The vector with a header of `k` bytes before the payload (spec/30_encoding.md R66). -/
def headerVec (k buf size : Nat) : List Segment :=
  [⟨.hdr, 0, k⟩, ⟨.mem, buf, size⟩, Segment.sentinel]

/-- A vector filled with sentinels to N + 1 entries (spec/10_state.md R29). -/
def fillVec (p : Params) (vec : List Segment) : List Segment :=
  vec ++ List.replicate (p.n + 1 - vec.length) Segment.sentinel

/-- The contract on a header request: the payload's own, and header and payload within COUNT_MAX
(spec/44_host_operations.md R133, R134). -/
def headerContract (p : Params) (k buf size : Nat) : Bool :=
  vecContract p (payloadVec buf size) && decide (k + size ≤ p.countMax)

/-- The slot contract (spec/44_host_operations.md R137). -/
def slotContract (p : Params) (buf size : Nat) : Bool :=
  decide (buf + size ≤ 2 ^ p.aw) && decide (size ≤ p.countMax)

/-- `iov[k]`; entries past those given are `{MEM, 0, 0}` (spec/10_state.md R29; log 17). -/
def iovAt (iov : List Segment) (k : Nat) : Segment := iov.getD k Segment.sentinel

/-- Whether a sentinel stands before index `k`, so that the entry there is not active
(spec/10_state.md R29, spec/30_encoding.md R65). -/
def pastSentinel (iov : List Segment) (k : Nat) : Bool := (iov.take k).any (fun e => e.len == 0)

/-- The entry a transmit walks on to at index `k`: `iov[k]`, and an entry past the first sentinel has no
byte to send (spec/30_encoding.md R65, spec/92_eei_decisions.md D16; log 23). -/
def walkEntry (iov : List Segment) (k : Nat) : Segment :=
  if pastSentinel iov k then { iovAt iov k with len := 0 } else iovAt iov k

end Sys2Proof.Machine
end

