-- ==== Sys2Proof/Machine/Ops.lean ====
section
/-!
DEFINITION. The named operations over memory, registers and transaction state: byte access, `Issue`,
raising a fault, entering the handler and returning from its stop wait, accepting a request, posting
a notification, returning from a host operation (spec/00_scope.md R9).
-/

namespace Sys2Proof.Machine

/-! ## Data memory -/

/-- What an address that memory does not list reads as. DESIGN CHOICE, unsafe (log 1): spec/20_memory.md
R43 leaves the contents at the start of a run to the launch. -/
def memUnlisted (_a : Nat) : Byte := 0x00

/-- The canonical form of memory: addresses strictly rising, no entry equal to what an unlisted
address reads as. -/
abbrev Memory.wf (m : Memory) : Prop :=
  m.Pairwise (fun x y => x.1 < y.1) ∧ ∀ c ∈ m, c.2 ≠ memUnlisted c.1

/-- `MemRead(a, 1)` (spec/20_memory.md R44). -/
def memRead : Memory → Nat → Byte
  | [], a => memUnlisted a
  | (b, w) :: m, a => if a = b then w else memRead m a

/-- A byte put before the entries of higher addresses, unless it is what the address reads as anyway. -/
def memCons (a : Nat) (v : Byte) (m : Memory) : Memory :=
  if v = memUnlisted a then m else (a, v) :: m

/-- `MemWrite(a, 1, v)` (spec/20_memory.md R44). -/
def memWrite : Memory → Nat → Byte → Memory
  | [], a, v => memCons a v []
  | (b, w) :: m, a, v =>
    if a < b then memCons a v ((b, w) :: m)
    else if a = b then memCons a v m
    else (b, w) :: memWrite m a v

/-! ## The cursor's space -/

/-- Whether an address exists in a space: data memory has 2^AW bytes, the header store two
(spec/20_memory.md R43, R44). -/
def spaceHas (p : Params) : Space → Nat → Bool
  | .mem, a => decide (a < 2 ^ p.aw)
  | .hdr, a => decide (a < 2)

/-- The fault of an access to an address its space does not have (log 10). -/
def outsideSpace : Space → Fault
  | .mem => .outsideDataMemory
  | .hdr => .outsideHeaderStore

/-- `SegRead(space, addr)` (spec/00_scope.md R9). -/
def segRead (space : Space) (a : Nat) (s : State) : Byte :=
  match space with
  | .mem => memRead s.mem a
  | .hdr => if a = 0 then s.hdr0 else s.hdr1

/-- `SegWrite(space, addr, v)` (spec/00_scope.md R9), which only the receive events perform. In space HDR
it writes the header store, as R9 and the corner case of spec/42_sequencer_controller.md R101 say of a
receive event that follows a header write, or leaves it, as spec/10_state.md R34 and
spec/60_exceptions.md R153 say, by the parameter `receiveWritesHdr` (log 24). -/
def segWrite (space : Space) (a : Nat) (v : Byte) (s : State) : State :=
  match space with
  | .mem => { s with mem := memWrite s.mem a v }
  | .hdr =>
    if s.params.receiveWritesHdr then
      if a = 0 then { s with hdr0 := v } else { s with hdr1 := v }
    else s

/-- The step goes on to `next` if the cursor's address exists in its space (log 10). -/
def atCursor (s : State) (next : State) : Result :=
  if spaceHas s.params s.curSpace s.cursor then .next next else .fault (outsideSpace s.curSpace)

/-! ## Commands -/

/-- `Issue(c)` (spec/40_bus_engine.md R72). -/
def issue (c : Command) (s : State) : State :=
  { s with
    cmd := c.code
    flags := flagsWord false (decide (c = .stop) || flagStopp s.flags)
    busLog := s.busLog ++ [(c, s.data)] }

/-! ## Faults, the handler's entry and its return -/

/-- `raise Fault(reason)`: the writes made so far stand, the reason is recorded and the step ends
(spec/00_scope.md R9, spec/60_exceptions.md R145; log 9). -/
def raiseFault (r : FaultReason) (s : State) : State := { s with fault := some r }

/-- Entry into the handler: `last_event <- STATUS[7:3]`, nothing is saved (spec/60_exceptions.md R145). -/
def enterHandler (s : State) : State := { s with lastEvent := statusCode s.status }

/-- `STOP_THEN(k)`: STOP is issued and the handler waits for the stop to clear
(spec/42_sequencer_controller.md R89). -/
def stopThen (k : Continuation) (s : State) : State := { issue .stop s with phase := .waitStop k }

/-- Whether `post(r, _)` finds the slot full (spec/44_host_operations.md R140). -/
def postOverruns (r : Recipient) (s : State) : Bool := decide (r ≠ Recipient.null) && s.nslot.full

/-- `post(r, k)` into a slot that is not full; nobody registered, nothing posted
(spec/44_host_operations.md R140). -/
def post (r : Recipient) (k : Int) (s : State) : State :=
  if r = Recipient.null then s else { s with nslot := ⟨true, r, k⟩ }

/-- Return from the handler after the stop wait: the continuation, then phase READY
(spec/42_sequencer_controller.md R90). A post into a full slot faults and keeps the phase. -/
def resume (k : Continuation) (s : State) : State :=
  match k with
  | .kIdle => { s with lifecycle := .idle, phase := .ready }
  | .kError => { s with transferredCount := -1, lifecycle := .error, phase := .ready }
  | .kTrDone =>
    let s := { s with lifecycle := .idle, taddr := 0x00 }
    if postOverruns s.notifyTarget s then raiseFault .notifyOverrun s
    else { post s.notifyTarget s.transferredCount s with phase := .ready }

/-! ## Host operations -/

/-- A host operation ends with a record in `host_log` (spec/10_state.md R41). -/
def hostReturn (r : HostRecord) (s : State) : State := { s with hostLog := s.hostLog ++ [r] }

/-- The segment that is being walked becomes `e` (spec/10_state.md R31). -/
def walkSegment (e : Segment) (s : State) : State :=
  { s with curSpace := e.space, cursor := e.base, limit := e.base + e.len }

/-- `ACCEPT(ab, vec)` (spec/44_host_operations.md R131). -/
def accept (ab : Byte) (vec : List Segment) (s : State) : State :=
  let iov := fillVec s.params vec
  issue .start
    { walkSegment (iovAt iov 0) s with
      iov := iov
      segmentIndex := 0
      transferredCount := 0
      address := ab
      role := if directionBit ab then .controllerReceive else .controllerTransmit
      lifecycle := .active }

end Sys2Proof.Machine
end

