-- ==== Sys2Proof/Machine/Commands.lean ====
section
/-!
DEFINITION. The meanings of the six commands written to CMD (spec/40_bus_engine.md R73 to R78).
-/

namespace Sys2Proof.Machine

/-- IDLE (spec/40_bus_engine.md R73). -/
def execCmdIdle (s : State) : Result := .next (issue .idle s)

/-- START (spec/40_bus_engine.md R74). -/
def execCmdStart (s : State) : Result := .next (issue .start s)

/-- STOP (spec/40_bus_engine.md R75). -/
def execCmdStop (s : State) : Result := .next (issue .stop s)

/-- DATA (spec/40_bus_engine.md R76). -/
def execCmdData (s : State) : Result := .next (issue .data s)

/-- ACK (spec/40_bus_engine.md R77). -/
def execCmdAck (s : State) : Result := .next (issue .ack s)

/-- NACK (spec/40_bus_engine.md R78). -/
def execCmdNack (s : State) : Result := .next (issue .nack s)

end Sys2Proof.Machine
end

