-- ==== Sys2Proof/Machine/Actions.lean ====
section
/-!
DEFINITION. The named actions the sequencer's transitions share (spec/41_status_decoder.md R87).
-/

namespace Sys2Proof.Machine

/-- The address byte on the wire (spec/42_sequencer_controller.md R91). -/
def sendAddress (s : State) : State := issue .data { s with data := s.address }

/-- The first half of CT_SEND: an exhausted segment gives way to the next entry, once, never past
entry N (spec/42_sequencer_controller.md R94). Past a sentinel no byte remains, as the prose of R94 and
R65 and ruling D16 say; R94's pseudocode alone would take up the next entry's bytes. DESIGN CHOICE
(log 23): `segment_index`, `cursor` and `limit` still move on to that entry, as an empty one. -/
def ctAdvance (s : State) : State :=
  if s.cursor = s.limit ∧ s.segmentIndex < s.params.n then
    walkSegment (walkEntry s.iov (s.segmentIndex + 1)) { s with segmentIndex := s.segmentIndex + 1 }
  else s

/-- The byte at the cursor goes to DATA and the cursor moves on. -/
def loadByte (s : State) : State :=
  { s with data := segRead s.curSpace s.cursor s, cursor := s.cursor + 1 }

/-- The byte in DATA goes to the cursor's place, the cursor moves on, the byte is counted. -/
def storeByte (s : State) : State :=
  { segWrite s.curSpace s.cursor s.data s with
    cursor := s.cursor + 1
    transferredCount := countSucc s.params s.transferredCount }

/-- The second half of CT_SEND: send a byte that remains, or take the data-NACK path
(spec/42_sequencer_controller.md R94). -/
def ctSendOrStop (s : State) : Result :=
  if s.cursor < s.limit then
    atCursor s
      { issue .data (loadByte s) with transferredCount := countSucc s.params s.transferredCount }
  else .next (stopThen .kIdle s)

/-- CT_SEND (spec/42_sequencer_controller.md R94). -/
def ctSend (s : State) : Result := ctSendOrStop (ctAdvance s)

/-- CR_ACK_DECIDE: ACK if more than one byte of room remains (spec/42_sequencer_controller.md R99).
A cursor past its limit, which no run reaches, has no room (log 20). -/
def crAckDecide (s : State) : State :=
  if s.limit - s.cursor > 1 then issue .ack s else issue .nack s

/-- The store of a controller-receive data event, and what follows it; no room is a fault
(spec/42_sequencer_controller.md R101, R102). -/
def crStore (after : State → State) (s : State) : Result :=
  if s.limit ≤ s.cursor then .next (raiseFault .bufferOverrun s)
  else atCursor s (after (storeByte s))

/-- The node is selected as a target over a slot (spec/43_sequencer_target.md R104, R112). -/
def selectTarget (role : Role) (slot : Slot) (s : State) : State :=
  { walkSegment ⟨.mem, slot.base, slot.len⟩ s with
    role := role
    transferredCount := 0
    lifecycle := .active }

/-- TT_SELECT (spec/43_sequencer_target.md R104). -/
def ttSelect (s : State) : State := selectTarget .targetTransmit s.readSlot s

/-- The byte a target sends when its READ buffer is exhausted (spec/30_encoding.md R71). -/
def sentinelByte : Byte := 0xFF

/-- TT_SEND (spec/43_sequencer_target.md R105). -/
def ttSend (s : State) : Result :=
  if s.cursor < s.limit then atCursor s (issue .ack (loadByte s))
  else .next (issue .nack { s with data := sentinelByte })

/-- TT_FINISH (spec/43_sequencer_target.md R106). -/
def ttFinish (s : State) : State := { issue .ack s with lifecycle := .idle }

/-- TR_SELECT (spec/43_sequencer_target.md R112). -/
def trSelect (s : State) : State := issue .ack (selectTarget .targetReceive s.writeSlot s)

/-- TR_STORE (spec/43_sequencer_target.md R113). -/
def trStore (s : State) : Result :=
  if s.cursor < s.limit then atCursor s (issue .ack (storeByte s))
  else .next (issue .nack s)

/-- ERROR_PATH (spec/43_sequencer_target.md R121). -/
def errorPath (s : State) : State := stopThen .kError s

end Sys2Proof.Machine
end

