-- ==== Sys2Proof/Machine/Controller.lean ====
section
/-!
DEFINITION. The meanings of the controller-role bus events: START, REP_START, ARB_LOST, controller
transmit and controller receive (spec/42_sequencer_controller.md R91 to R103). Each is chosen by the
event alone, whatever `role` and `lifecycle` hold (spec/41_status_decoder.md R86).
-/

namespace Sys2Proof.Machine

/-- START (spec/42_sequencer_controller.md R91). -/
def execEvStart (s : State) : Result := .next (sendAddress s)

/-- REP_START (spec/42_sequencer_controller.md R92). -/
def execEvRepStart (s : State) : Result := .next (sendAddress s)

/-- ARB_LOST, with no stop and no wait (spec/42_sequencer_controller.md R93). -/
def execEvArbLost (s : State) : Result :=
  .next { issue .idle s with lifecycle := .error, transferredCount := -1 }

/-- CT_ADDR_ACK (spec/42_sequencer_controller.md R95). -/
def execEvCtAddrAck (s : State) : Result := ctSend s

/-- CT_DATA_ACK (spec/42_sequencer_controller.md R96). -/
def execEvCtDataAck (s : State) : Result := ctSend s

/-- CT_DATA_NACK, which is no error (spec/42_sequencer_controller.md R97). -/
def execEvCtDataNack (s : State) : Result := .next (stopThen .kIdle s)

/-- CT_ADDR_NACK (spec/42_sequencer_controller.md R98). -/
def execEvCtAddrNack (s : State) : Result := .next (stopThen .kError s)

/-- CR_ADDR_ACK (spec/42_sequencer_controller.md R100). -/
def execEvCrAddrAck (s : State) : Result := .next (crAckDecide s)

/-- CR_DATA_ACK (spec/42_sequencer_controller.md R101). -/
def execEvCrDataAck (s : State) : Result := crStore crAckDecide s

/-- CR_DATA_NACK (spec/42_sequencer_controller.md R102). -/
def execEvCrDataNack (s : State) : Result := crStore (stopThen .kIdle) s

/-- CR_ADDR_NACK (spec/42_sequencer_controller.md R103). -/
def execEvCrAddrNack (s : State) : Result := .next (stopThen .kError s)

end Sys2Proof.Machine
end

