-- ==== Sys2Proof/Machine/HostOps.lean ====
section
/-!
DEFINITION. The meanings of the host operations (spec/44_host_operations.md R128 to R141). The host
has a step only while the phase is READY and no fault is recorded; that is the turn's condition
(spec/60_exceptions.md R142), not the operation's.
-/

namespace Sys2Proof.Machine

/-- A request is turned away in band: result false, nothing else written (spec/44_host_operations.md
R131). -/
def requestRefused (s : State) : Bool := decide (s.lifecycle = .active) || !ctrlEn s.ctrl

/-- The checks of a request in the order of spec/60_exceptions.md R144, then the state `accepted` with
result true. -/
def requestOr (contract : Bool) (accepted s : State) : State :=
  if requestRefused s then hostReturn (.result false) s
  else if contract then hostReturn (.result true) accepted
  else raiseFault .hostContractVec s

/-- Whether `begin` returns false: while ACTIVE, in target mode without a notify target, or with an
address above 127 (spec/44_host_operations.md R128). -/
def beginRefused (notify : Recipient) (a : Byte) (s : State) : Bool :=
  decide (s.lifecycle = .active) || (decide (a ≠ 0) && decide (notify = Recipient.null)) ||
    decide (127 < a.toNat)

/-- The registers of an accepted `begin`: controller mode sets PULLUP and DIV and turns the filter off,
target mode arms the filter and leaves PULLUP and DIV (spec/44_host_operations.md R128). -/
def configure (a : Byte) (s : State) : State :=
  if a = 0 then
    { s with ctrl := ctrlWord true true true, div := s.params.divValue, taddr := 0x00 }
  else
    { s with
      ctrl := ctrlWord true true (ctrlPullup s.ctrl)
      taddr := filterValue (a.setWidth 7) }

/-- `begin(notify, a)` (spec/44_host_operations.md R128). -/
def execBegin (notify : Recipient) (a : Byte) (s : State) : Result :=
  if beginRefused notify a s then .next (hostReturn (.result false) s)
  else
    .next (hostReturn (.result true)
      (issue .idle (configure a { s with notifyTarget := notify, ownAddress := a.setWidth 7 })))

/-- `end()` (spec/44_host_operations.md R129). -/
def execEndOp (s : State) : Result :=
  if s.lifecycle = .active then .next (raiseFault .hostContractEndActive s)
  else
    .next (hostReturn .none
      { s with
        notifyTarget := Recipient.null
        ctrl := 0x00
        flags := flagsWord false (flagStopp s.flags) })

/-- A request over a vector, which `request`, `write_request` and `read_request` share
(spec/30_encoding.md R70, spec/44_host_operations.md R131). -/
def requestVec (ab : Byte) (vec : List Segment) (s : State) : State :=
  requestOr (vecContract s.params vec) (accept ab vec s) s

/-- `request(ab, vec)` (spec/44_host_operations.md R131). -/
def execRequest (ab : Byte) (vec : List Segment) (s : State) : Result := .next (requestVec ab vec s)

/-- `write_request(a, buf, size)` (spec/44_host_operations.md R132). -/
def execWriteRequest (a : BitVec 7) (buf size : Nat) (s : State) : Result :=
  .next (requestVec (addressByte a false) (payloadVec buf size) s)

/-- `write_request(a, u8(h), buf, size)` (spec/44_host_operations.md R133). -/
def execWriteRequestH8 (a : BitVec 7) (h : Byte) (buf size : Nat) (s : State) : Result :=
  .next (requestOr (headerContract s.params 1 buf size)
    (accept (addressByte a false) (headerVec 1 buf size) { s with hdr0 := h }) s)

/-- `write_request(a, u16(h), buf, size)`, header most significant byte first
(spec/44_host_operations.md R134). -/
def execWriteRequestH16 (a : BitVec 7) (h : BitVec 16) (buf size : Nat) (s : State) : Result :=
  .next (requestOr (headerContract s.params 2 buf size)
    (accept (addressByte a false) (headerVec 2 buf size)
      { s with hdr0 := h.extractLsb' 8 8, hdr1 := h.extractLsb' 0 8 }) s)

/-- `read_request(a, buf, size)` (spec/44_host_operations.md R135). -/
def execReadRequest (a : BitVec 7) (buf size : Nat) (s : State) : Result :=
  .next (requestVec (addressByte a true) (payloadVec buf size) s)

/-- Whether `await_completed` holds (spec/44_host_operations.md R136). -/
def awaitHolds (s : State) : Bool := decide (s.lifecycle = .active)

/-- `await_completed(mode)`: while ACTIVE it holds, changing nothing; then it returns the count. No
rule reads `mode` (spec/44_host_operations.md R136; log 13). -/
def execAwaitCompleted (_mode : SleepMode) (s : State) : Result :=
  if awaitHolds s then .next s else .next (hostReturn (.count s.transferredCount) s)

/-- `set_write_buf(buf, size)` (spec/44_host_operations.md R138). -/
def execSetWriteBuf (buf size : Nat) (s : State) : Result :=
  if slotContract s.params buf size then .next (hostReturn .none { s with writeSlot := ⟨buf, size⟩ })
  else .next (raiseFault .hostContractBuf s)

/-- `set_read_buf(buf, size)` (spec/44_host_operations.md R139). -/
def execSetReadBuf (buf size : Nat) (s : State) : Result :=
  if slotContract s.params buf size then .next (hostReturn .none { s with readSlot := ⟨buf, size⟩ })
  else .next (raiseFault .hostContractBuf s)

/-- `dispatch()`: an empty slot returns false; otherwise `on_request` is delivered, the slot emptied
and the filter armed again (spec/44_host_operations.md R141). -/
def execDispatch (s : State) : Result :=
  if s.nslot.full then
    .next (hostReturn (.result true)
      { hostReturn (.onRequest s.nslot.recipient s.writeSlot.base s.nslot.count) s with
        nslot := ⟨false, Recipient.null, 0⟩
        taddr := filterValue s.ownAddress })
  else .next (hostReturn (.result false) s)

end Sys2Proof.Machine
end

