-- ==== Sys2Proof/Machine/Target.lean ====
section
/-!
DEFINITION. The meanings of the target-role bus events, the events on the error path and the
unrecognized codes (spec/43_sequencer_target.md R107 to R127). Each is chosen by the event alone,
whatever `role` and `lifecycle` hold (spec/41_status_decoder.md R86).
-/

namespace Sys2Proof.Machine

/-- TT_ADDR_ACK (spec/43_sequencer_target.md R107). -/
def execEvTtAddrAck (s : State) : Result := ttSend (ttSelect s)

/-- TT_ARB_LOST_ADDR_ACK (spec/43_sequencer_target.md R108). -/
def execEvTtArbLostAddrAck (s : State) : Result := ttSend (ttSelect s)

/-- TT_DATA_ACK (spec/43_sequencer_target.md R109). -/
def execEvTtDataAck (s : State) : Result := ttSend s

/-- TT_DATA_NACK (spec/43_sequencer_target.md R110). -/
def execEvTtDataNack (s : State) : Result := .next (ttFinish s)

/-- TT_LAST_DATA (spec/43_sequencer_target.md R111). -/
def execEvTtLastData (s : State) : Result := .next (ttFinish s)

/-- TR_ADDR_ACK (spec/43_sequencer_target.md R114). -/
def execEvTrAddrAck (s : State) : Result := .next (trSelect s)

/-- TR_ARB_LOST_ADDR_ACK (spec/43_sequencer_target.md R115). -/
def execEvTrArbLostAddrAck (s : State) : Result := .next (trSelect s)

/-- TR_GCALL_ACK (spec/43_sequencer_target.md R116). -/
def execEvTrGcallAck (s : State) : Result := .next (trSelect s)

/-- TR_ARB_LOST_GCALL_ACK (spec/43_sequencer_target.md R117). -/
def execEvTrArbLostGcallAck (s : State) : Result := .next (trSelect s)

/-- TR_DATA_ACK (spec/43_sequencer_target.md R118). -/
def execEvTrDataAck (s : State) : Result := trStore s

/-- TR_GCALL_DATA_ACK (spec/43_sequencer_target.md R119). -/
def execEvTrGcallDataAck (s : State) : Result := trStore s

/-- TR_STOP (spec/43_sequencer_target.md R120). -/
def execEvTrStop (s : State) : Result := .next (stopThen .kTrDone s)

/-- BUS_ERROR (spec/43_sequencer_target.md R122). -/
def execEvBusError (s : State) : Result := .next (errorPath s)

/-- TR_DATA_NACK (spec/43_sequencer_target.md R123). -/
def execEvTrDataNack (s : State) : Result := .next (errorPath s)

/-- TR_GCALL_DATA_NACK (spec/43_sequencer_target.md R124). -/
def execEvTrGcallDataNack (s : State) : Result := .next (errorPath s)

/-- TT_ADDR_NACK (spec/43_sequencer_target.md R125). -/
def execEvTtAddrNack (s : State) : Result := .next (errorPath s)

/-- TR_ADDR_NACK (spec/43_sequencer_target.md R125). -/
def execEvTrAddrNack (s : State) : Result := .next (errorPath s)

/-- NO_INFO (spec/43_sequencer_target.md R126). -/
def execEvNoInfo (s : State) : Result := .next (errorPath s)

/-- UNRECOGNIZED, STATUS code 26 (spec/43_sequencer_target.md R127). -/
def execEvUnrecognizedD0 (s : State) : Result := .next (issue .idle s)

/-- UNRECOGNIZED, STATUS code 27 (spec/43_sequencer_target.md R127). -/
def execEvUnrecognizedD8 (s : State) : Result := .next (issue .idle s)

/-- UNRECOGNIZED, STATUS code 28 (spec/43_sequencer_target.md R127). -/
def execEvUnrecognizedE0 (s : State) : Result := .next (issue .idle s)

/-- UNRECOGNIZED, STATUS code 29 (spec/43_sequencer_target.md R127). -/
def execEvUnrecognizedE8 (s : State) : Result := .next (issue .idle s)

/-- UNRECOGNIZED, STATUS code 30 (spec/43_sequencer_target.md R127). -/
def execEvUnrecognizedF0 (s : State) : Result := .next (issue .idle s)

end Sys2Proof.Machine
end

