-- ==== Sys2Proof/Machine/Dispatch.lean ====
section
/-!
DEFINITION. `exec`: the meaning of every instruction, one arm per constructor of `Instr`.
-/

namespace Sys2Proof.Machine

def exec (i : Instr) (s : State) : Host.Outcome State Fault Refusal :=
  match i with
  | .cmdIdle => Sys2Proof.Machine.execCmdIdle s
  | .cmdStart => Sys2Proof.Machine.execCmdStart s
  | .cmdStop => Sys2Proof.Machine.execCmdStop s
  | .cmdData => Sys2Proof.Machine.execCmdData s
  | .cmdAck => Sys2Proof.Machine.execCmdAck s
  | .cmdNack => Sys2Proof.Machine.execCmdNack s
  | .evBusError => Sys2Proof.Machine.execEvBusError s
  | .evStart => Sys2Proof.Machine.execEvStart s
  | .evRepStart => Sys2Proof.Machine.execEvRepStart s
  | .evCtAddrAck => Sys2Proof.Machine.execEvCtAddrAck s
  | .evCtAddrNack => Sys2Proof.Machine.execEvCtAddrNack s
  | .evCtDataAck => Sys2Proof.Machine.execEvCtDataAck s
  | .evCtDataNack => Sys2Proof.Machine.execEvCtDataNack s
  | .evArbLost => Sys2Proof.Machine.execEvArbLost s
  | .evCrAddrAck => Sys2Proof.Machine.execEvCrAddrAck s
  | .evCrAddrNack => Sys2Proof.Machine.execEvCrAddrNack s
  | .evCrDataAck => Sys2Proof.Machine.execEvCrDataAck s
  | .evCrDataNack => Sys2Proof.Machine.execEvCrDataNack s
  | .evTrAddrAck => Sys2Proof.Machine.execEvTrAddrAck s
  | .evTrArbLostAddrAck => Sys2Proof.Machine.execEvTrArbLostAddrAck s
  | .evTrGcallAck => Sys2Proof.Machine.execEvTrGcallAck s
  | .evTrArbLostGcallAck => Sys2Proof.Machine.execEvTrArbLostGcallAck s
  | .evTrDataAck => Sys2Proof.Machine.execEvTrDataAck s
  | .evTrDataNack => Sys2Proof.Machine.execEvTrDataNack s
  | .evTrGcallDataAck => Sys2Proof.Machine.execEvTrGcallDataAck s
  | .evTrGcallDataNack => Sys2Proof.Machine.execEvTrGcallDataNack s
  | .evTrStop => Sys2Proof.Machine.execEvTrStop s
  | .evTtAddrAck => Sys2Proof.Machine.execEvTtAddrAck s
  | .evTtArbLostAddrAck => Sys2Proof.Machine.execEvTtArbLostAddrAck s
  | .evTtDataAck => Sys2Proof.Machine.execEvTtDataAck s
  | .evTtDataNack => Sys2Proof.Machine.execEvTtDataNack s
  | .evTtLastData => Sys2Proof.Machine.execEvTtLastData s
  | .evUnrecognizedD0 => Sys2Proof.Machine.execEvUnrecognizedD0 s
  | .evUnrecognizedD8 => Sys2Proof.Machine.execEvUnrecognizedD8 s
  | .evUnrecognizedE0 => Sys2Proof.Machine.execEvUnrecognizedE0 s
  | .evUnrecognizedE8 => Sys2Proof.Machine.execEvUnrecognizedE8 s
  | .evUnrecognizedF0 => Sys2Proof.Machine.execEvUnrecognizedF0 s
  | .evNoInfo => Sys2Proof.Machine.execEvNoInfo s
  | .evTtAddrNack => Sys2Proof.Machine.execEvTtAddrNack s
  | .evTrAddrNack => Sys2Proof.Machine.execEvTrAddrNack s
  | .begin notify address => Sys2Proof.Machine.execBegin notify address s
  | .endOp => Sys2Proof.Machine.execEndOp s
  | .request ab vec => Sys2Proof.Machine.execRequest ab vec s
  | .writeRequest a buf size => Sys2Proof.Machine.execWriteRequest a buf size s
  | .writeRequestH8 a header buf size => Sys2Proof.Machine.execWriteRequestH8 a header buf size s
  | .writeRequestH16 a header buf size => Sys2Proof.Machine.execWriteRequestH16 a header buf size s
  | .readRequest a buf size => Sys2Proof.Machine.execReadRequest a buf size s
  | .awaitCompleted sleepMode => Sys2Proof.Machine.execAwaitCompleted sleepMode s
  | .setWriteBuf buf size => Sys2Proof.Machine.execSetWriteBuf buf size s
  | .setReadBuf buf size => Sys2Proof.Machine.execSetReadBuf buf size s
  | .dispatch => Sys2Proof.Machine.execDispatch s

end Sys2Proof.Machine
end

