-- ==== Sys2Proof/Machine/Schedule.lean ====
section
/-!
DEFINITION. Whose turn is next, which moves are enabled, the environment's own steps, and how an
instruction is fetched from each interface (spec/60_exceptions.md R142, spec/40_bus_engine.md R79,
R80, spec/42_sequencer_controller.md R88).
-/

namespace Sys2Proof.Machine

/-! ## Fetching -/

/-- The event the sequencer takes next: the instruction STATUS spells (spec/42_sequencer_controller.md
R88). -/
def fetchEvent (s : State) : Instr := decodeStatus s.params s.status

/-- The host's next operation and the bytes after it (spec/44_host_operations.md). -/
def fetchHostOp (s : State) : Except DecodeError (Instr × List Byte) :=
  decode s.params .hostOp s.port

/-- The command a mock's write of CMD spells (spec/30_encoding.md R62). -/
def fetchCommand (c : Byte) : Except DecodeError Instr := decodeCommand c

/-- The refusal of bytes that spell no instruction (spec/60_exceptions.md R148). -/
def refusalOf : DecodeError → Refusal
  | .reservedOpcode => .reservedOpcode
  | .operandRange => .operandRange
  | .reservedCmd => .reservedCmd
  | .incomplete => .incompleteOperation

/-! ## The environment -/

/-- The environment raises a bus event: `STATUS <- s[7:3] ++ 0b000`, `DATA <- d`, INTF is set
(spec/40_bus_engine.md R79). -/
def raiseEvent (st d : Byte) (s : State) : State :=
  { s with
    status := statusCode st ++ (0 : BitVec 3)
    data := d
    flags := flagsWord true (flagStopp s.flags) }

/-- The environment clears STOPP (spec/40_bus_engine.md R80). -/
def clearStop (s : State) : State := { s with flags := flagsWord (flagIntf s.flags) false }

/-- The host stores a byte in its own memory (spec/20_memory.md R50, R54; log 6). -/
def hostStoreByte (a : Nat) (v : Byte) (s : State) : State := { s with mem := memWrite s.mem a v }

/-- Further operations of the host's program arrive at the port (spec/60_exceptions.md R150; log 21). -/
def receiveProgram (bs : List Byte) (s : State) : State := { s with port := bs }

/-! ## Turns -/

/-- The next turn, and the state in which it is taken: the first of the turns given from outside, or
a free draw (spec/60_exceptions.md R142; log 5). -/
def nextTurn (s : State) : Turn × State :=
  match s.turns with
  | t :: ts => (t, { s with turns := ts })
  | [] => (.agent (Config.freeMove s.tick), { s with tick := s.tick + 1 })

/-- Whether a host operation called in this state holds: `await_completed` is the one that can
(spec/44_host_operations.md R136). -/
def callHolds (i : Instr) (s : State) : Bool :=
  match i with
  | .awaitCompleted _ => awaitHolds s
  | _ => false

/-- Whether the host is in a hold: it has called an operation, which holds still (spec/00_scope.md R9,
R10). -/
def hostHolds (s : State) : Bool :=
  s.awaiting &&
    match fetchHostOp s with
    | .ok (i, _) => callHolds i s
    | .error _ => false

/-- The host calls the operation `i` at the port: one that holds stays there, and any other is taken,
an `await_completed` that was called before too (spec/00_scope.md R10; log 13, log 22). -/
def callHostOp (i : Instr) (rest : List Byte) (s : State) : State :=
  if callHolds i s then { s with awaiting := true } else { s with port := rest, awaiting := false }

/-- Whether the sequencer has a step: the event step in phase READY, the resume step once STOPP is 0
(spec/42_sequencer_controller.md R88, R90). -/
def sequencerEnabled (s : State) : Bool :=
  match s.phase with
  | .ready => irq s
  | .waitStop _ => !flagStopp s.flags

/-- Whether the host may step: never during a stop wait (spec/60_exceptions.md R142 a), and not in a hold
(spec/00_scope.md R9, R10). DESIGN CHOICE (log 22): once the lifecycle has left ACTIVE the hold has
lifted, and the host's own store may land before the host's step that returns from the call. -/
def hostRuns (s : State) : Bool := decide (s.phase = .ready) && !hostHolds s

/-- Whether a move is an enabled step (spec/60_exceptions.md R142, R149). -/
def enabled (m : Move) (s : State) : Bool :=
  decide (s.fault = none) &&
    match m with
    | .sequencer => sequencerEnabled s
    | .host => hostRuns s && !s.port.isEmpty
    | .hostStore a _ => hostRuns s && decide (a < 2 ^ s.params.aw)
    | .hostProgram bs => hostRuns s && s.endless && s.port.isEmpty && !bs.isEmpty
    | .busEvent _ _ => ctrlEn s.ctrl && !flagIntf s.flags
    | .stopClear => flagStopp s.flags

/-! ## Placing a table word -/

/-- The bytes of one instruction: those the decoder takes, or all where it refuses. -/
def instructionBytes (p : Params) (fmt : Format) (bs : List Byte) : List Byte :=
  match decode p fmt bs with
  | .ok (_, rest) => bs.take (bs.length - rest.length)
  | .error _ => bs

/-- A state in which the very next step fetches and runs the instruction of a table word: on the host
port, as a pending event, or as a mock's write of CMD (log 3, log 4). -/
def placeTableWord (nbits w : Nat) (s : State) : State :=
  let bs := tableBytes nbits w
  match tableFormat nbits w with
  | .hostOp =>
    { s with
      port := instructionBytes s.params .hostOp bs ++ s.port
      awaiting := false
      turns := .agent .host :: s.turns
      phase := .ready
      fault := none }
  | .status =>
    { raiseEvent (bs.headD 0) s.data s with
      ctrl := ctrlWord true true (ctrlPullup s.ctrl)
      turns := .agent .sequencer :: s.turns
      phase := .ready
      fault := none }
  | .cmd => { s with turns := .mockCommand (bs.headD 0) :: s.turns, fault := none }

end Sys2Proof.Machine
end

