-- ==== Sys2Proof/Machine/Perform.lean ====
section
/-!
DEFINITION. What a turn does: an enabled move is performed, a move that is not enabled passes
(spec/60_exceptions.md R142; log 5).
-/

namespace Sys2Proof.Machine

/-- The sequencer's step: the event step enters the handler and runs the event, the resume step returns
from the stop wait (spec/42_sequencer_controller.md R88, R90). -/
def performSequencer (s : State) : Result :=
  match s.phase with
  | .ready => exec (fetchEvent s) (enterHandler s)
  | .waitStop k => .next (resume k s)

/-- The host's step: its next operation, taken from the port unless it holds; bytes that spell none are
refused before they reach the block (spec/00_scope.md R10). -/
def performHost (s : State) : Result :=
  match fetchHostOp s with
  | .ok (i, rest) => exec i (callHostOp i rest s)
  | .error e => .refused (refusalOf e)

/-- A mock writes CMD from outside the block; a reserved value is refused (spec/30_encoding.md R62). -/
def performMockCommand (c : Byte) (s : State) : Result :=
  match fetchCommand c with
  | .ok i => exec i s
  | .error e => .refused (refusalOf e)

/-- An agent's move. -/
def performMove (m : Move) (s : State) : Result :=
  match m with
  | .sequencer => performSequencer s
  | .host => performHost s
  | .hostStore a v => .next (hostStoreByte a v s)
  | .hostProgram bs => .next (receiveProgram bs s)
  | .busEvent st d => .next (raiseEvent st d s)
  | .stopClear => .next (clearStop s)

/-- A turn: a move that is not enabled passes and changes nothing (log 5). -/
def performTurn (t : Turn) (s : State) : Result :=
  match t with
  | .agent m => if enabled m s then performMove m s else .next s
  | .mockCommand c => performMockCommand c s

end Sys2Proof.Machine
end

