-- ==== Sys2Proof/Machine/Step.lean ====
section
/-!
DEFINITION. `step`, one atomic step of one agent (spec/60_exceptions.md R142), and the placing of an
opcode-table word where the next step fetches it.
-/

namespace Sys2Proof.Machine

/-- One step: in a faulted state no agent has one (spec/60_exceptions.md R149), otherwise the next turn
is taken. -/
def step (s : State) : Host.Outcome State Fault Refusal :=
  match s.fault with
  | some r => .fault (.stopped r)
  | none => performTurn (nextTurn s).1 (nextTurn s).2

/-- `s` with the instruction of a table word placed so that the very next step runs it (log 4). -/
def State.withFetchWord (s : State) (nbits w : Nat) : State := placeTableWord nbits w s

end Sys2Proof.Machine
end

