-- ==== Sys2Proof/Safety.lean ====
section
/-!
DEFINITION. The terms claims are made in: the invariant of the machine, runs and their end, the
fairness and conforming-bus premises, and the protocol-error kinds (spec/00_scope.md R14,
spec/40_bus_engine.md R80, R82, spec/60_exceptions.md R142, R151).
-/

namespace Sys2Proof.Machine

/-! ## The invariant -/

/-- The first address a space does not have (spec/20_memory.md R43, R44). -/
def spaceTop (p : Params) : Space → Nat
  | .mem => 2 ^ p.aw
  | .hdr => 2

/-- Reserved fields read 0 and TADDR.GCE is 0 (spec/10_state.md R19, R22, R24, R25). -/
abbrev RegistersOk (s : State) : Prop :=
  s.status &&& 0x07 = 0 ∧ s.taddr &&& 0x01 = 0 ∧ s.ctrl &&& 0xF8 = 0 ∧ s.flags &&& 0xFC = 0

/-- CMD holds the command issued last, IDLE before the first (spec/10_state.md R20, R40). -/
abbrev CommandLogged (s : State) : Prop :=
  s.cmd = ((s.busLog.getLast?).map (fun e => e.1.code)).getD 0x00

/-- An entry lies inside its space and its fields inside their widths (spec/10_state.md R29, R31). -/
abbrev SegmentInside (p : Params) (e : Segment) : Prop :=
  e.base < 2 ^ p.aw ∧ e.len < 2 ^ p.lw ∧ e.base + e.len ≤ spaceTop p e.space

/-- `iov` has N + 1 entries, each inside its space, one of them a sentinel; `segment_index` is in 0..N
(spec/10_state.md R29, R30). -/
abbrev VectorOk (s : State) : Prop :=
  s.iov.length = s.params.n + 1 ∧ (∀ e ∈ s.iov, SegmentInside s.params e) ∧
    (∃ e ∈ s.iov, e.len = 0) ∧ s.segmentIndex ≤ s.params.n

/-- The walk stays inside its segment and the segment inside its space (spec/10_state.md R31). -/
abbrev WalkOk (s : State) : Prop := s.cursor ≤ s.limit ∧ s.limit ≤ spaceTop s.params s.curSpace

/-- A slot meets the host contract (spec/44_host_operations.md R137). -/
abbrev SlotOk (p : Params) (b : Slot) : Prop :=
  b.base < 2 ^ p.aw ∧ b.base + b.len ≤ 2 ^ p.aw ∧ b.len ≤ p.countMax

/-- A signed CW-bit value (spec/10_state.md R32). -/
abbrev CountInRange (p : Params) (c : Int) : Prop := -2 ^ (p.cw - 1) ≤ c ∧ c < 2 ^ (p.cw - 1)

/-- An empty notification slot holds `{0, NULL, 0}`, a full one a recipient (spec/10_state.md R37,
spec/44_host_operations.md R140, R141). -/
abbrev NotificationOk (s : State) : Prop :=
  (s.nslot.full = false → s.nslot = ⟨false, Recipient.null, 0⟩) ∧
    (s.nslot.full = true → s.nslot.recipient ≠ Recipient.null) ∧
    CountInRange s.params s.nslot.count

/-- A notify target lies inside RECIPIENT (spec/10_state.md R36, R37). -/
abbrev RecipientsOk (s : State) : Prop :=
  s.notifyTarget < 2 ^ s.params.recipientBits ∧ s.nslot.recipient < 2 ^ s.params.recipientBits

/-- Data memory is canonical and inside the address space (spec/20_memory.md R43). -/
abbrev MemoryOk (s : State) : Prop :=
  Memory.wf s.mem ∧ ∀ c ∈ s.mem, c.1 < 2 ^ s.params.aw

/-- What holds at reset and what every step keeps. -/
abbrev Inv (s : State) : Prop :=
  s.params.wf ∧ RegistersOk s ∧ CommandLogged s ∧ VectorOk s ∧ WalkOk s ∧
    SlotOk s.params s.readSlot ∧ SlotOk s.params s.writeSlot ∧
    CountInRange s.params s.transferredCount ∧ NotificationOk s ∧ RecipientsOk s ∧
    MemoryOk s

/-! ## Operands -/

/-- A number that the bytes of an operand of width `w` can spell and the width does not admit
(spec/30_encoding.md R68); there is one unless the width fills its bytes. -/
abbrev OutsideWidth (w v : Nat) : Prop := 2 ^ w ≤ v ∧ v < 256 ^ bytesFor w

/-! ## Runs -/

/-- Instructions one after the other, stopping at the first that answers no next state. -/
def execAll : List Instr → State → Result
  | [], s => .next s
  | i :: is, s =>
    match exec i s with
    | .next t => execAll is t
    | .fault f => .fault f
    | .refused r => .refused r

/-- A run that never stops: each state steps to the next. -/
def IsRun (run : Nat → State) : Prop := ∀ k, step (run k) = .next (run (k + 1))

/-- The run is over: the host has no further operation, the sequencer is in phase READY and no fault is
recorded (spec/00_scope.md R14). -/
abbrev RunOver (s : State) : Prop :=
  s.port = [] ∧ s.endless = false ∧ s.phase = .ready ∧ s.fault = none

/-- The turn taken in a state. -/
def turnOf (s : State) : Turn := (nextTurn s).1

/-- A move that stays enabled is taken (spec/60_exceptions.md R142 b). -/
def FairTo (m : Move) (run : Nat → State) : Prop :=
  ∀ k, (∀ j, k ≤ j → enabled m (run j) = true) → ∃ j, k ≤ j ∧ turnOf (run j) = .agent m

/-- The operations of a program with no end do arrive where the port stays empty (log 21). -/
def FairToProgram (run : Nat → State) : Prop :=
  ∀ k, (∀ j, k ≤ j → ∃ bs, enabled (.hostProgram bs) (run j) = true) →
    ∃ j bs, k ≤ j ∧ bs ≠ [] ∧ turnOf (run j) = .agent (.hostProgram bs)

/-- The weak fairness of spec/60_exceptions.md R142 b and spec/40_bus_engine.md R80: the sequencer, the
host's operations (which a program with no end keeps supplying) and the stop-clear step; raising an
event is not fair. A premise for claims about whole runs (log 14). -/
def WeaklyFair (run : Nat → State) : Prop :=
  FairTo .sequencer run ∧ FairTo .host run ∧ FairToProgram run ∧ FairTo .stopClear run

/-! ## The conforming bus -/

/-- Whether this node still holds the bus, from the commands before the START, latest first: no stop
or idle since a controller byte (spec/40_bus_engine.md R82; log 18). DESIGN CHOICE (log 18): an ACK or
NACK of a target role answers no, whatever came before it, since a controller that is then a target has
lost the bus, though no STOP or IDLE may stand since its last byte. -/
def busHeld (last : Event) : List (Command × Byte) → Bool
  | [] => false
  | (.idle, _) :: _ => false
  | (.stop, _) :: _ => false
  | (.data, _) :: _ => true
  | (.ack, _) :: _ => decide (last = .crAddrAck) || decide (last = .crDataAck)
  | (.nack, _) :: _ => decide (last = .crAddrAck) || decide (last = .crDataAck)
  | (.start, _) :: log => busHeld last log

/-- The codes of a node that is addressed as a target while its engine is ready
(spec/40_bus_engine.md R82, the row of STOP, IDLE and ACK ending a target-transmit). -/
def selectionCodes (s : State) : List Nat :=
  (if s.taddr &&& 0xFE = 0 then [] else [12, 21]) ++ (if s.taddr.getLsbD 0 then [14] else [])

/-- Whether an event belongs to a general-call write. -/
def isGeneralCall (e : Event) : Bool :=
  decide (e = .trGcallAck) || decide (e = .trArbLostGcallAck) || decide (e = .trGcallDataAck)

/-- Whether an event belongs to a controller receive, for which ACK and NACK ask the next byte. -/
def isControllerReceive (e : Event) : Bool := decide (e = .crAddrAck) || decide (e = .crDataAck)

/-- Whether an event ended a target-transmit. -/
def isTransmitEnd (e : Event) : Bool := decide (e = .ttDataNack) || decide (e = .ttLastData)

/-- Whether an event belongs to a target-transmit in progress. -/
def isTargetTransmit (e : Event) : Bool :=
  decide (e = .ttAddrAck) || decide (e = .ttArbLostAddrAck) || decide (e = .ttDataAck)

/-- The codes a conforming bus may raise after the commands of `log` (latest first), beside 0x00
(spec/40_bus_engine.md R82; log 18). DESIGN CHOICE (log 18), where no row of the table gives the
context: with no command yet, the codes of a selection, as after IDLE; after a DATA command whose
last event is no START, those of a controller-transmit data byte; after an ACK or NACK whose last
event is of no controller receive and no target-transmit (for a NACK, also where it ended one), those
of a target receive. -/
def successorCodes (s : State) : List (Command × Byte) → List Nat
  | [] => selectionCodes s
  | (.idle, _) :: _ => selectionCodes s
  | (.stop, _) :: _ => selectionCodes s
  | (.start, _) :: log => if busHeld (decodeEvent s.params s.lastEvent) log then [2] else [1]
  | (.data, _) :: _ =>
    let last := decodeEvent s.params s.lastEvent
    if last = .start ∨ last = .repStart then
      (if directionBit s.address then [8, 9, 7] else [3, 4, 7]) ++ [13, 15, 22]
    else [5, 6, 7]
  | (.ack, _) :: _ =>
    let last := decodeEvent s.params s.lastEvent
    if isControllerReceive last then [10, 7]
    else if isTransmitEnd last then selectionCodes s
    else if isTargetTransmit last then [23, 24]
    else if isGeneralCall last then [18, 20] else [16, 20]
  | (.nack, _) :: _ =>
    let last := decodeEvent s.params s.lastEvent
    if isControllerReceive last then [11, 7]
    else if isTargetTransmit last then [24, 25]
    else if isGeneralCall last then [19, 20] else [17, 20]

/-- Whether the last command of `log` (latest first) is of the table's row of STOP, IDLE and the ACK that
ends a target-transmit, after which only a selection comes (spec/40_bus_engine.md R82); no command yet
counts as IDLE (log 18). -/
def awaitsSelection (s : State) : List (Command × Byte) → Bool
  | [] => true
  | (.idle, _) :: _ => true
  | (.stop, _) :: _ => true
  | (.ack, _) :: _ => isTransmitEnd (decodeEvent s.params s.lastEvent)
  | (.start, _) :: _ => false
  | (.data, _) :: _ => false
  | (.nack, _) :: _ => false

/-- The environment raises the event with STATUS `st` in a state. -/
def Raises (s : State) (st : Byte) : Prop :=
  ∃ d, turnOf s = .agent (.busEvent st d) ∧ enabled (.busEvent st d) s = true

/-- The optional premise ConformingBus (spec/40_bus_engine.md R82): every event the environment raises
along the run has a code of the table, or code 0. DESIGN CHOICE (log 18): code 0 may follow every
command, as the rule's prose says, also IDLE, STOP and the ACK that ends a target-transmit, after which
the table's row and spec/70_reset_and_hazards.md R167 name no event unless a controller addresses this
node: that is a clause of `FilteringBus`. What other rules say of a conforming bus beyond its table is `FilteringBus`. -/
def ConformingBus (run : Nat → State) : Prop :=
  ∀ k st, Raises (run k) st →
    (statusCode st).toNat = 0 ∨ (statusCode st).toNat ∈ successorCodes (run k) (run k).busLog.reverse

/-- Whether the target filter is on: TADDR.ADDR is not 0 (spec/10_state.md R22), and no target-receive
stop is under way, from which on the filter is off (spec/70_reset_and_hazards.md R163). -/
def filterOn (s : State) : Bool :=
  decide (s.taddr &&& 0xFE ≠ 0) && decide (s.phase ≠ .waitStop .kTrDone)

/-- A conforming bus as spec/70_reset_and_hazards.md R163 and R160, spec/43_sequencer_target.md R116, R117
and R120 and spec/44_host_operations.md R140 speak of it: beside the table of R82, it selects this node
by its address only while the filter is on, and by a general call only while TADDR.GCE is 1; and, as the
table's row and spec/70_reset_and_hazards.md R167 say, after IDLE, STOP or the end of a target-transmit no
event comes, 0x00 neither, unless a controller addresses this node. That the two are two premises, since
the table alone lists 0x68, 0x78 and 0xB0 with no condition and R82's prose admits 0x00 after every
command, is a DESIGN CHOICE (log 18). -/
def FilteringBus (run : Nat → State) : Prop :=
  ConformingBus run ∧ ∀ k st, Raises (run k) st →
    ((statusCode st).toNat ∈ [12, 13, 21, 22] → filterOn (run k) = true) ∧
    ((statusCode st).toNat ∈ [14, 15] → (run k).taddr.getLsbD 0 = true) ∧
    (awaitsSelection (run k) (run k).busLog.reverse = true → (statusCode st).toNat ≠ 0)

/-- Whether a host operation makes a request: `request` and its pseudo-operations
(spec/30_encoding.md R70). -/
def isRequest (i : Instr) : Bool :=
  match i with
  | .request _ _ => true
  | .writeRequest _ _ _ => true
  | .writeRequestH8 _ _ _ _ => true
  | .writeRequestH16 _ _ _ _ => true
  | .readRequest _ _ _ => true
  | _ => false

/-- Whether the next operation at the port makes a request. -/
def requestNext (s : State) : Bool :=
  match fetchHostOp s with
  | .ok (i, _) => isRequest i
  | .error _ => false

/-- The premise of spec/70_reset_and_hazards.md R167 for a claim that needs no event dropped: the host
never calls a request while an event is pending. The rule's words are that no event is raised while INTF
is set and the host is about to call `request`; DEDUCED (log 18) that an event raised before and still
pending is meant, since spec/40_bus_engine.md R79 lets none be raised while INTF is set. -/
def NoEventPendingAtRequest (run : Nat → State) : Prop :=
  ∀ k, turnOf (run k) = .agent .host → requestNext (run k) = true → flagIntf (run k).flags = false

/-! ## Protocol errors -/

/-- The source's error kinds, and this spec's two further rows (spec/60_exceptions.md R151). -/
inductive ErrorKind where
  | arbitrationLost | arbitrationLostThenSelected | addressNacked | dataNacked | busError
  | unrecognizedStatus | unmatched
  deriving DecidableEq, Repr

/-- The kind of an event; no state field records it (spec/60_exceptions.md R151). -/
def errorKind : Event → Option ErrorKind
  | .arbLost => some .arbitrationLost
  | .trArbLostAddrAck => some .arbitrationLostThenSelected
  | .trArbLostGcallAck => some .arbitrationLostThenSelected
  | .ttArbLostAddrAck => some .arbitrationLostThenSelected
  | .ctAddrNack => some .addressNacked
  | .crAddrNack => some .addressNacked
  | .ctDataNack => some .dataNacked
  | .busError => some .busError
  | .unrecognized => some .unrecognizedStatus
  | .trDataNack => some .unmatched
  | .trGcallDataNack => some .unmatched
  | .noInfo => some .unmatched
  | .ttAddrNack => some .unmatched
  | .trAddrNack => some .unmatched
  | .start => none
  | .repStart => none
  | .ctAddrAck => none
  | .ctDataAck => none
  | .crAddrAck => none
  | .crDataAck => none
  | .crDataNack => none
  | .trAddrAck => none
  | .trGcallAck => none
  | .trDataAck => none
  | .trGcallDataAck => none
  | .trStop => none
  | .ttAddrAck => none
  | .ttDataAck => none
  | .ttDataNack => none
  | .ttLastData => none

end Sys2Proof.Machine
end

