-- ==== Sys2Proof/Certificates/Slice0/Obligations.lean ====
section
/-!
DEFINITION. The statements for the provers. Each docstring names the rule of spec/ it formalises, or
the log entry of the model's choice it rests on. A conclusion `exec i s = .next { s with … }` is also
the frame: every field not named is unchanged, data memory among them.
-/

open Sys2Proof Sys2Proof.Machine

/-! ## Reset and the whole machine -/

/-- R159: the value of every piece of state of spec/10_state.md after reset, and that neither the
sequencer nor the environment's event step is enabled there, at every setting of the parameters
(`State.reset` is the case of the defaults of R7). -/
def Obligations.ResetHoldsTheStatedValues : Prop :=
  State.reset = State.resetWith Params.default ∧ ∀ p : Params,
  let r := State.resetWith p
  r.params = p ∧ r.status = 0xF8 ∧ r.cmd = 0x00 ∧ r.data = 0x00 ∧ r.taddr = 0x00 ∧ r.div = 0x00 ∧ r.ctrl = 0x00 ∧
    r.flags = 0x00 ∧ r.role = .none ∧ r.lifecycle = .idle ∧ r.address = 0x00 ∧
    r.iov = List.replicate (p.n + 1) ⟨.mem, 0, 0⟩ ∧ r.segmentIndex = 0 ∧ r.cursor = 0 ∧
    r.limit = 0 ∧ r.curSpace = .mem ∧ r.transferredCount = 0 ∧ r.lastEvent = 31 ∧ r.hdr0 = 0x00 ∧
    r.hdr1 = 0x00 ∧ r.readSlot = ⟨0, 0⟩ ∧ r.writeSlot = ⟨0, 0⟩ ∧ r.notifyTarget = Recipient.null ∧
    r.ownAddress = 0 ∧ r.nslot = ⟨false, Recipient.null, 0⟩ ∧ r.phase = .ready ∧ r.fault = none ∧
    r.busLog = [] ∧ r.hostLog = [] ∧ enabled .sequencer r = false ∧
    ∀ st d, enabled (.busEvent st d) r = false

/-- The invariant `Inv` (spec/10_state.md R19 to R37, R137, and canonical memory) holds at reset, with the
default parameters and with every other legal setting. -/
def Obligations.InvariantHoldsAtReset : Prop :=
  Inv State.reset ∧ ∀ p : Params, p.wf → Inv (State.resetWith p)

/-- Every step that answers a next state keeps `Inv`, from every state that has it, reached or not. -/
def Obligations.EveryStepKeepsTheInvariant : Prop :=
  ∀ s u : State, Inv s → step s = .next u → Inv u

/-- The parameters of R7 are fixed for the machine: no step writes them (log 12). -/
def Obligations.EveryStepKeepsTheParameters : Prop :=
  ∀ s u : State, step s = .next u → u.params = s.params

/-- R44, R31: from a state of the invariant no step reaches outside data memory or the header store. -/
def Obligations.NoStepLeavesItsAddressSpaces : Prop :=
  ∀ s : State, Inv s → step s ≠ .fault .outsideDataMemory ∧ step s ≠ .fault .outsideHeaderStore

/-- R149: in a faulted state no agent has an enabled step, and the state is not the end of a run. That
`step` answers the recorded reason there is the model's inference (log 9). -/
def Obligations.AFaultedBlockTakesNoStep : Prop :=
  ∀ (s : State) (r : FaultReason), s.fault = some r →
    (∀ m, enabled m s = false) ∧ step s = .fault (.stopped r) ∧ ¬RunOver s

/-- R39: `fault` is none at reset, an instruction writes it only by raising a reason, with no other
write of its own, and no step of any kind clears it. -/
def Obligations.NoInstructionClearsTheFault : Prop :=
  State.reset.fault = none ∧
    (∀ (i : Instr) (s u : State), exec i s = .next u →
      u.fault = s.fault ∨ ∃ r, u = { s with fault := some r }) ∧
    ∀ s u : State, s.fault ≠ none → step s ≠ .next u

/-! ## One step -/

/-- R142, R10: in the host's turn, in phase READY and with no fault, the bytes at the port that decode
to an operation that does not hold are taken, and `step` is `exec` of that operation. R150: where the
host's program has no end, the bytes of further operations arrive at an empty port, and such a state is
not the end of a run. The turn list is the model's (log 5), the port (log 4) and the arrival
(log 21) too. -/
def Obligations.StepRunsTheFetchedHostOperation : Prop :=
  (∀ (s : State) (ts : List Turn) (i : Instr) (rest : List Byte),
    s.turns = .agent .host :: ts → s.fault = none → s.phase = .ready →
    decodeHostOp s.params s.port = .ok (i, rest) →
    ((∃ m, i = .awaitCompleted m) → s.lifecycle ≠ .active) →
    step s = exec i { s with turns := ts, port := rest, awaiting := false }) ∧
  ∀ (s : State) (ts : List Turn) (bs : List Byte),
    s.turns = .agent (.hostProgram bs) :: ts → s.fault = none → s.phase = .ready →
    s.endless = true → s.port = [] → bs ≠ [] →
    step s = .next { s with turns := ts, port := bs } ∧ ¬RunOver s

/-- R88, R83: in the sequencer's turn, with IRQ, phase READY and no fault, STATUS[7:3] is written to
`last_event` and `step` is `exec` of the decoded event. With INTF, EN or IE clear there is no event step
(R24) and the turn passes. The turn list and the passing are the model's (log 5). -/
def Obligations.StepRunsThePendingEvent : Prop :=
  ∀ (s : State) (ts : List Turn),
    s.turns = .agent .sequencer :: ts → s.fault = none → s.phase = .ready →
    (flagIntf s.flags = true → ctrlEn s.ctrl = true → ctrlIe s.ctrl = true →
      step s =
        exec (decodeStatus s.params s.status)
          { s with turns := ts, lastEvent := s.status.extractLsb' 3 5 }) ∧
    (flagIntf s.flags = false ∨ ctrlEn s.ctrl = false ∨ ctrlIe s.ctrl = false →
      step s = .next { s with turns := ts })

/-- R90, R140: the resume step, once STOPP is 0: each continuation, and the post of the target-receive
stop into no slot, an empty slot and a full one. R90, R146, R152, R161: while STOPP is 1 the sequencer
has no step in the wait, whatever INTF, EN and IE hold, and its turn passes. The turn list and the
passing are the model's (log 5). -/
def Obligations.ResumeStepPerformsTheContinuation : Prop :=
  ∀ (s : State) (ts : List Turn),
    s.turns = .agent .sequencer :: ts → s.fault = none →
    (∀ k, s.phase = .waitStop k → flagStopp s.flags = true →
      step s = .next { s with turns := ts }) ∧
    (flagStopp s.flags = false →
      (s.phase = .waitStop .kIdle →
        step s = .next { s with turns := ts, lifecycle := .idle, phase := .ready }) ∧
      (s.phase = .waitStop .kError →
        step s = .next { s with
          turns := ts, transferredCount := -1, lifecycle := .error, phase := .ready }) ∧
      (s.phase = .waitStop .kTrDone → s.notifyTarget = Recipient.null →
        step s = .next { s with
          turns := ts, lifecycle := .idle, taddr := 0x00, phase := .ready }) ∧
      (s.phase = .waitStop .kTrDone → s.notifyTarget ≠ Recipient.null → s.nslot.full = false →
        step s = .next { s with
          turns := ts, lifecycle := .idle, taddr := 0x00, phase := .ready
          nslot := ⟨true, s.notifyTarget, s.transferredCount⟩ }) ∧
      (s.phase = .waitStop .kTrDone → s.notifyTarget ≠ Recipient.null → s.nslot.full = true →
        step s = .next { s with
          turns := ts, lifecycle := .idle, taddr := 0x00, fault := some .notifyOverrun }))

/-- R62, R72: a mock's write of CMD runs the command it spells, and a reserved value is refused. That a
mock's write is a turn is the model's choice (log 16). -/
def Obligations.StepRunsOrRefusesAMockCommand : Prop :=
  ∀ (s : State) (ts : List Turn) (b : Byte),
    s.turns = .mockCommand b :: ts → s.fault = none →
    (∀ i, (b, i) ∈ [((0 : Byte), Instr.cmdIdle), (1, .cmdStart), (2, .cmdStop), (3, .cmdData),
        (4, .cmdAck), (5, .cmdNack)] → step s = exec i { s with turns := ts }) ∧
    (6 ≤ b.toNat → step s = .refused .reservedCmd)

/-- R79: the environment's event step, with any STATUS and any byte, exactly when EN = 1 and INTF = 0.
Otherwise the turn passes, which is the model's choice (log 5). -/
def Obligations.EnvironmentRaisesAnyEvent : Prop :=
  ∀ (s : State) (ts : List Turn) (st d : Byte),
    s.turns = .agent (.busEvent st d) :: ts → s.fault = none →
    step s = .next (if ctrlEn s.ctrl = true ∧ flagIntf s.flags = false then
      { s with
        turns := ts
        status := st.extractLsb' 3 5 ++ (0 : BitVec 3)
        data := d
        flags := flagsWord true (flagStopp s.flags) }
      else { s with turns := ts })

/-- R80: the stop-clear step, whatever EN holds. When STOPP is 0 the turn passes, which is the model's
choice (log 5). -/
def Obligations.EnvironmentClearsTheStop : Prop :=
  ∀ (s : State) (ts : List Turn),
    s.turns = .agent .stopClear :: ts → s.fault = none →
    step s = .next (if flagStopp s.flags = true then
      { s with turns := ts, flags := flagsWord (flagIntf s.flags) false }
      else { s with turns := ts })

/-- R142 a, R50: the host has no move while the phase is not READY, and a move that is not enabled
passes and changes nothing but the turn list (the model's choice, log 5). That the host's own stores
are among those moves is the model's inference (log 6), and so is the arrival of its further
operations (log 21). -/
def Obligations.HostHasNoMoveDuringAStopWait : Prop :=
  ∀ (s : State) (ts : List Turn), s.fault = none → s.phase ≠ .ready →
    (s.turns = .agent .host :: ts → step s = .next { s with turns := ts }) ∧
    (∀ a v, s.turns = .agent (.hostStore a v) :: ts → step s = .next { s with turns := ts }) ∧
    (∀ bs, s.turns = .agent (.hostProgram bs) :: ts → step s = .next { s with turns := ts })

/-- R54, R50: the host's own store changes the one byte, seen through `memRead`, and nothing else. That
the store is a turn is the model's inference (log 6). R9, R10: in a hold the host has no step, the store
included (`AwaitReturnsTheCountOrHolds`); before the host has called the `await_completed` it has, while
the lifecycle is ACTIVE too (log 22). -/
def Obligations.HostStoreWritesOneByte : Prop :=
  ∀ (s : State) (ts : List Turn) (a : Nat) (v : Byte),
    s.turns = .agent (.hostStore a v) :: ts → s.fault = none → s.phase = .ready →
    Memory.wf s.mem → a < 2 ^ s.params.aw →
    (s.awaiting = true → s.lifecycle = .active →
      ∀ m rest, decodeHostOp s.params s.port ≠ .ok (.awaitCompleted m, rest)) →
    ∃ t, step s = .next t ∧ t = { s with turns := ts, mem := t.mem } ∧
      ∀ b, memRead t.mem b = if b = a then v else memRead s.mem b

/-- R81: while EN = 0 the environment raises no event, the sequencer takes no event step, and no step
of any kind changes STATUS or DATA. -/
def Obligations.EngineOffRaisesNoEvent : Prop :=
  ∀ s : State, ctrlEn s.ctrl = false →
    (∀ st d, enabled (.busEvent st d) s = false) ∧
    (s.phase = .ready → enabled .sequencer s = false) ∧
    ∀ u, step s = .next u → u.status = s.status ∧ u.data = s.data

/-- R80, R150: along every weakly fair run each stop wait ends. -/
def Obligations.EveryStopWaitEnds : Prop :=
  ∀ run : Nat → State, IsRun run → WeaklyFair run →
    ∀ k, ∃ j, k ≤ j ∧ (run j).phase = .ready

/-! ## Decoders and encoder -/

/-- R85, R58: under the default map the event row of every CODE, whatever STATUS[2:0] holds; codes 26
to 30 are the unrecognized rows. -/
def Obligations.EveryStatusDecodesByItsCode : Prop :=
  ∀ (p : Params) (low : BitVec 3), p.statusMap = Config.statusMap →
    ∀ e ∈ [((0 : BitVec 5), Instr.evBusError), (1, .evStart), (2, .evRepStart), (3, .evCtAddrAck),
        (4, .evCtAddrNack), (5, .evCtDataAck), (6, .evCtDataNack), (7, .evArbLost),
        (8, .evCrAddrAck), (9, .evCrAddrNack), (10, .evCrDataAck), (11, .evCrDataNack),
        (12, .evTrAddrAck), (13, .evTrArbLostAddrAck), (14, .evTrGcallAck),
        (15, .evTrArbLostGcallAck), (16, .evTrDataAck), (17, .evTrDataNack),
        (18, .evTrGcallDataAck), (19, .evTrGcallDataNack), (20, .evTrStop), (21, .evTtAddrAck),
        (22, .evTtArbLostAddrAck), (23, .evTtDataAck), (24, .evTtDataNack), (25, .evTtLastData),
        (26, .evUnrecognizedD0), (27, .evUnrecognizedD8), (28, .evUnrecognizedE0),
        (29, .evUnrecognizedE8), (30, .evUnrecognizedF0), (31, .evNoInfo)],
      decodeStatus p (e.1 ++ low) = e.2

/-- R60: the two target address-NACK events are decoded exactly where the map gives them, so under the
default map from no STATUS value. -/
def Obligations.TargetAddressNacksNeedAnotherMap : Prop :=
  (∀ (p : Params) (st : Byte),
    (decodeStatus p st = .evTtAddrNack ↔ decodeEvent p (statusCode st) = .ttAddrNack) ∧
    (decodeStatus p st = .evTrAddrNack ↔ decodeEvent p (statusCode st) = .trAddrNack)) ∧
  ∀ (p : Params) (st : Byte), p.statusMap = Config.statusMap →
    decodeStatus p st ≠ .evTtAddrNack ∧ decodeStatus p st ≠ .evTrAddrNack

/-- Decode of encode is the instruction, for every well-formed instruction of the three interfaces but
the two events that have no code (R60), at every setting of the parameters with the default map.
The bytes of a host operation's operands are the model's choice (log 2). -/
def Obligations.DecodeOfEncodeIsTheInstruction : Prop :=
  ∀ (p : Params) (i : Instr) (rest : List Byte),
    p.wf → p.statusMap = Config.statusMap → i.wellFormed p = true →
    i ≠ .evTtAddrNack → i ≠ .evTrAddrNack →
    decode p i.format (encode p i ++ rest) = .ok (i, rest)

/-- R68: whatever bytes stand at the port, what the decoder answers is a host operation whose operands
are inside their widths and whose vector has 1 to N + 1 entries. -/
def Obligations.DecodedHostOperationsAreWellFormed : Prop :=
  ∀ (p : Params) (bs rest : List Byte) (i : Instr),
    decodeHostOp p bs = .ok (i, rest) → i.format = .hostOp ∧ i.wellFormed p = true

/-- R68, R10, R148: in the host's turn a reserved opcode is refused, and so is every operand outside its
width or list length: a 7-bit address above 127; a `buf` or `size` of each operation that has them; a
vector that goes on past N + 1 entries; an entry's space, base or length, or its mark of a next entry,
in any place of the vector; a notify target; a sleep mode. So the block's state does not change. The
operand bytes are the model's choice (log 2), the widths of the last two too (log 11). -/
def Obligations.OperationsThatSpellNoneAreRefused : Prop :=
  ∀ (s : State) (ts : List Turn), s.turns = .agent .host :: ts → s.fault = none → s.phase = .ready →
    (∀ op bs, s.port = op :: bs → op.toNat = 0 ∨ 12 ≤ op.toNat →
      step s = .refused .reservedOpcode) ∧
    (∀ op a bs, s.port = op :: a :: bs → op ∈ [(4 : Byte), 5, 6, 7] → 128 ≤ a.toNat →
      step s = .refused .operandRange) ∧
    (∀ op pre buf bs, (op, pre.length) ∈ [((4 : Byte), 1), (5, 2), (6, 3), (7, 1), (9, 0), (10, 0)] →
      OutsideWidth s.params.aw buf → s.port = op :: (pre ++ (putOperand s.params.aw buf ++ bs)) →
      step s = .refused .operandRange) ∧
    (∀ op pre buf size bs,
      (op, pre.length) ∈ [((4 : Byte), 1), (5, 2), (6, 3), (7, 1), (9, 0), (10, 0)] →
      OutsideWidth s.params.lw size →
      s.port = op :: (pre ++ (putOperand s.params.aw buf ++ (putOperand s.params.lw size ++ bs))) →
      step s = .refused .operandRange) ∧
    (∀ ab (vec : List Segment) bs, s.port = (3 : Byte) :: ab :: (vec.flatMap (putMore s.params) ++ bs) →
      (∀ e ∈ vec, e.wellFormed s.params = true) →
      (vec.length = s.params.n + 1 → step s = .refused .operandRange) ∧
      (vec.length ≤ s.params.n →
        (∀ sp rest, bs = sp :: rest → 2 ≤ sp.toNat → step s = .refused .operandRange) ∧
        (∀ sp base rest, bs = sp :: (putOperand s.params.aw base ++ rest) →
          OutsideWidth s.params.aw base → step s = .refused .operandRange) ∧
        (∀ sp base len rest,
          bs = sp :: (putOperand s.params.aw base ++ (putOperand s.params.lw len ++ rest)) →
          OutsideWidth s.params.lw len → step s = .refused .operandRange) ∧
        (∀ e more rest, bs = putSegment s.params e ++ more :: rest → e.wellFormed s.params = true →
          2 ≤ more.toNat → step s = .refused .operandRange))) ∧
    (∀ notify bs, s.port = (1 : Byte) :: (putOperand s.params.recipientBits notify ++ bs) →
      OutsideWidth s.params.recipientBits notify → step s = .refused .operandRange) ∧
    (∀ mode bs, s.port = (8 : Byte) :: (putOperand s.params.sleepBits mode ++ bs) →
      OutsideWidth s.params.sleepBits mode → step s = .refused .operandRange)

/-- A few words written out from the tables of R59, R61 and R67 decode to the instruction they stand
for; the operand bytes of the host operations are the model's choice (log 2). -/
def Obligations.WrittenOutWordsDecode : Prop :=
  decode Params.default .cmd [0b00000101] = .ok (.cmdNack, []) ∧
  decode Params.default .status [0b00011011] = .ok (.evCtAddrAck, []) ∧
  decode Params.default .status [0b10100000] = .ok (.evTrStop, []) ∧
  decode Params.default .hostOp [0b00000001, 0x00, 0x07, 0x21] = .ok (.begin 7 0x21, []) ∧
  decode Params.default .hostOp [0b00000110, 0x50, 0x12, 0x34, 0x02, 0x00, 0x00, 0x01, 0x0B] =
    .ok (.writeRequestH16 0x50 0x1234 0x200 1, [0x0B])

/-! ## Commands -/

/-- R72: each command writes its code to CMD, clears INTF, STOP also sets STOPP, and the pair of
command and DATA is appended to `bus_log`; nothing else changes. -/
def Obligations.EveryCommandIssues : Prop :=
  ∀ s : State,
    exec .cmdIdle s = .next { s with
      cmd := 0x00, flags := flagsWord false (flagStopp s.flags), busLog := s.busLog ++ [(.idle, s.data)] } ∧
    exec .cmdStart s = .next { s with
      cmd := 0x01, flags := flagsWord false (flagStopp s.flags), busLog := s.busLog ++ [(.start, s.data)] } ∧
    exec .cmdStop s = .next { s with
      cmd := 0x02, flags := flagsWord false true, busLog := s.busLog ++ [(.stop, s.data)] } ∧
    exec .cmdData s = .next { s with
      cmd := 0x03, flags := flagsWord false (flagStopp s.flags), busLog := s.busLog ++ [(.data, s.data)] } ∧
    exec .cmdAck s = .next { s with
      cmd := 0x04, flags := flagsWord false (flagStopp s.flags), busLog := s.busLog ++ [(.ack, s.data)] } ∧
    exec .cmdNack s = .next { s with
      cmd := 0x05, flags := flagsWord false (flagStopp s.flags), busLog := s.busLog ++ [(.nack, s.data)] }

/-- R62: a value of 6 or more is reserved, a mock that gives one is refused by the decoder, and no
instruction writes one to CMD. -/
def Obligations.NoReservedCommandReachesCmd : Prop :=
  (∀ b : Byte, 6 ≤ b.toNat → decodeCommand b = .error .reservedCmd) ∧
    ∀ (i : Instr) (s u : State), exec i s = .next u → u.cmd = s.cmd ∨ u.cmd.toNat ≤ 5

/-! ## Controller events -/

/-- R91, R92: START and REP_START put the address byte on the wire. -/
def Obligations.StartEventsSendTheAddress : Prop :=
  ∀ (s : State) (i : Instr), i ∈ [Instr.evStart, .evRepStart] →
    exec i s = .next { s with
      data := s.address
      cmd := 0x03
      flags := flagsWord false (flagStopp s.flags)
      busLog := s.busLog ++ [(.data, s.address)] }

/-- R93: ARB_LOST issues IDLE and marks the error, with no stop and no wait. -/
def Obligations.ArbitrationLostMarksTheError : Prop :=
  ∀ s : State,
    exec .evArbLost s = .next { s with
      cmd := 0x00
      flags := flagsWord false (flagStopp s.flags)
      busLog := s.busLog ++ [(.idle, s.data)]
      lifecycle := .error
      transferredCount := -1 }

/-- R94, R95, R96: CT_ADDR_ACK and CT_DATA_ACK send the next byte of the active segment, or advance
once to the next entry and send its first byte, or stop when no byte remains. Where a byte is
counted, a premise says that the sum stays inside CW bits (R8). The cursor may be 2^AW after the last
byte of memory (the model's inference, log 7). R65, D16: an entry past a sentinel has no byte to
send; that the walk still moves on to it, as to an empty one, is the model's choice (log 23). -/
def Obligations.TransmitAcksSendTheNextByte : Prop :=
  ∀ (s : State) (i : Instr), i ∈ [Instr.evCtAddrAck, .evCtDataAck] → Inv s →
    (s.cursor < s.limit → s.transferredCount + 1 < 2 ^ (s.params.cw - 1) →
      exec i s = .next { s with
        data := segRead s.curSpace s.cursor s
        cursor := s.cursor + 1
        cmd := 0x03
        flags := flagsWord false (flagStopp s.flags)
        busLog := s.busLog ++ [(.data, segRead s.curSpace s.cursor s)]
        transferredCount := s.transferredCount + 1 }) ∧
    (s.cursor = s.limit → s.segmentIndex < s.params.n →
      ∀ e, s.iov[s.segmentIndex + 1]? = some e →
        (0 < e.len → (∀ x ∈ s.iov.take (s.segmentIndex + 1), 0 < x.len) →
          s.transferredCount + 1 < 2 ^ (s.params.cw - 1) →
          exec i s = .next { s with
            segmentIndex := s.segmentIndex + 1
            curSpace := e.space
            cursor := e.base + 1
            limit := e.base + e.len
            data := segRead e.space e.base s
            cmd := 0x03
            flags := flagsWord false (flagStopp s.flags)
            busLog := s.busLog ++ [(.data, segRead e.space e.base s)]
            transferredCount := s.transferredCount + 1 }) ∧
        (e.len = 0 ∨ (∃ x ∈ s.iov.take (s.segmentIndex + 1), x.len = 0) →
          exec i s = .next { s with
            segmentIndex := s.segmentIndex + 1
            curSpace := e.space
            cursor := e.base
            limit := e.base
            cmd := 0x02
            flags := flagsWord false true
            busLog := s.busLog ++ [(.stop, s.data)]
            phase := .waitStop .kIdle })) ∧
    (s.cursor = s.limit → s.segmentIndex = s.params.n →
      exec i s = .next { s with
        cmd := 0x02
        flags := flagsWord false true
        busLog := s.busLog ++ [(.stop, s.data)]
        phase := .waitStop .kIdle })

/-- The count goes up in signed CW-bit two's complement: one more, but for the top value, which goes to
the bottom one. DEDUCED from R8 (log 8): the rule says the sum never overflows. -/
def Obligations.CountIsTwosComplement : Prop :=
  ∀ (p : Params) (c : Int), 1 ≤ p.cw → CountInRange p c →
    countSucc p c = if c + 1 = 2 ^ (p.cw - 1) then -2 ^ (p.cw - 1) else c + 1

/-- R89: every event with a stop path issues STOP and waits for the stop to clear with its own
continuation: R97; R98, R103; R120; R121 with R122 to R126. -/
def Obligations.StopPathsIssueStopAndWait : Prop :=
  ∀ (s : State) (i : Instr) (k : Continuation),
    (i, k) ∈ [(Instr.evCtDataNack, Continuation.kIdle), (.evCtAddrNack, .kError),
      (.evCrAddrNack, .kError), (.evTrStop, .kTrDone), (.evBusError, .kError),
      (.evTrDataNack, .kError), (.evTrGcallDataNack, .kError), (.evTtAddrNack, .kError),
      (.evTrAddrNack, .kError), (.evNoInfo, .kError)] →
    exec i s = .next { s with
      cmd := 0x02
      flags := flagsWord false true
      busLog := s.busLog ++ [(.stop, s.data)]
      phase := .waitStop k }

/-- R98, R103, R121 to R126: after the event and the wait, the count is -1 and the lifecycle ERROR, and
nothing else has changed but the STOP command and its record. `t` is the state after the event, seen
once STOPP has cleared and it is the sequencer's turn (the turn list is the model's, log 5). -/
def Obligations.ErrorPathEndsInError : Prop :=
  ∀ (s : State) (i : Instr) (ts : List Turn),
    i ∈ [Instr.evCtAddrNack, .evCrAddrNack, .evBusError, .evTrDataNack, .evTrGcallDataNack,
      .evTtAddrNack, .evTrAddrNack, .evNoInfo] → s.fault = none →
    ∃ t, exec i s = .next t ∧
      step { t with flags := flagsWord false false, turns := .agent .sequencer :: ts } =
        .next { s with
          cmd := 0x02
          flags := flagsWord false false
          busLog := s.busLog ++ [(.stop, s.data)]
          turns := ts
          transferredCount := -1
          lifecycle := .error
          phase := .ready }

/-- R97: a data NACK in controller-transmit ends the transaction IDLE after the wait, the count kept.
`t` is as in `ErrorPathEndsInError` (log 5). -/
def Obligations.DataNackEndsIdleWithTheCount : Prop :=
  ∀ (s : State) (ts : List Turn), s.fault = none →
    ∃ t, exec .evCtDataNack s = .next t ∧
      step { t with flags := flagsWord false false, turns := .agent .sequencer :: ts } =
        .next { s with
          cmd := 0x02
          flags := flagsWord false false
          busLog := s.busLog ++ [(.stop, s.data)]
          turns := ts
          lifecycle := .idle
          phase := .ready }

/-- R99, R100: the address ACK of a controller receive asks ACK if more than one byte of room remains
(`limit - cursor > 1`), else NACK. The premise is R31's: no run takes the cursor past its limit. -/
def Obligations.ReceiveAddressAckDecidesTheAck : Prop :=
  ∀ s : State, s.cursor ≤ s.limit →
    (s.cursor + 1 < s.limit →
      exec .evCrAddrAck s = .next { s with
        cmd := 0x04
        flags := flagsWord false (flagStopp s.flags)
        busLog := s.busLog ++ [(.ack, s.data)] }) ∧
    (s.limit ≤ s.cursor + 1 →
      exec .evCrAddrAck s = .next { s with
        cmd := 0x05
        flags := flagsWord false (flagStopp s.flags)
        busLog := s.busLog ++ [(.nack, s.data)] })

/-- R101: a controller-receive data ACK with room stores DATA at the cursor, counts it and decides
the next ACK; with no room it faults, and nothing else is written. Memory is seen through `memRead`;
a cursor in the header store may write `hdr`. Where the byte is counted, a premise says that the sum
stays inside CW bits (R8). The cursor may be 2^AW after the last byte of memory (the model's
inference, log 7). Whether a cursor in the header store writes it is a parameter (the model's choice,
log 24). -/
def Obligations.ReceiveDataAckStoresTheByte : Prop :=
  ∀ s : State, Inv s →
    (s.cursor < s.limit → s.transferredCount + 1 < 2 ^ (s.params.cw - 1) →
      ∃ t, exec .evCrDataAck s = .next t ∧
        t = { s with
          mem := t.mem
          hdr0 := if s.curSpace = .hdr ∧ s.cursor = 0 ∧ s.params.receiveWritesHdr = true
            then s.data else s.hdr0
          hdr1 := if s.curSpace = .hdr ∧ s.cursor = 1 ∧ s.params.receiveWritesHdr = true
            then s.data else s.hdr1
          cursor := s.cursor + 1
          transferredCount := s.transferredCount + 1
          cmd := if s.cursor + 2 < s.limit then 0x04 else 0x05
          flags := flagsWord false (flagStopp s.flags)
          busLog := s.busLog ++
            [(if s.cursor + 2 < s.limit then .ack else .nack, s.data)] } ∧
        ∀ a, memRead t.mem a =
          if s.curSpace = .mem ∧ a = s.cursor then s.data else memRead s.mem a) ∧
    (s.limit ≤ s.cursor → exec .evCrDataAck s = .next { s with fault := some .bufferOverrun })

/-- R102: a controller-receive data NACK with room stores the final byte, counts it and takes the stop
path to IDLE; with no room it faults. The premise on the count, the cursor's 2^AW (log 7) and
the header store (log 24) are as in `ReceiveDataAckStoresTheByte`. -/
def Obligations.ReceiveDataNackStoresAndStops : Prop :=
  ∀ s : State, Inv s →
    (s.cursor < s.limit → s.transferredCount + 1 < 2 ^ (s.params.cw - 1) →
      ∃ t, exec .evCrDataNack s = .next t ∧
        t = { s with
          mem := t.mem
          hdr0 := if s.curSpace = .hdr ∧ s.cursor = 0 ∧ s.params.receiveWritesHdr = true
            then s.data else s.hdr0
          hdr1 := if s.curSpace = .hdr ∧ s.cursor = 1 ∧ s.params.receiveWritesHdr = true
            then s.data else s.hdr1
          cursor := s.cursor + 1
          transferredCount := s.transferredCount + 1
          cmd := 0x02
          flags := flagsWord false true
          busLog := s.busLog ++ [(.stop, s.data)]
          phase := .waitStop .kIdle } ∧
        ∀ a, memRead t.mem a =
          if s.curSpace = .mem ∧ a = s.cursor then s.data else memRead s.mem a) ∧
    (s.limit ≤ s.cursor → exec .evCrDataNack s = .next { s with fault := some .bufferOverrun })

/-! ## Target events -/

/-- R104, R105, R107, R108: a selection for a read resets the walk to the READ slot, zeroes the count,
enters ACTIVE as target-transmit, and sends the first byte with ACK, or 0xFF with NACK when the slot
is empty. The cursor may be 2^AW after the last byte of memory (the model's inference, log 7). -/
def Obligations.TransmitSelectionSendsTheFirstByte : Prop :=
  ∀ (s : State) (i : Instr), i ∈ [Instr.evTtAddrAck, .evTtArbLostAddrAck] → Inv s →
    (0 < s.readSlot.len →
      exec i s = .next { s with
        role := .targetTransmit
        curSpace := .mem
        cursor := s.readSlot.base + 1
        limit := s.readSlot.base + s.readSlot.len
        transferredCount := 0
        lifecycle := .active
        data := memRead s.mem s.readSlot.base
        cmd := 0x04
        flags := flagsWord false (flagStopp s.flags)
        busLog := s.busLog ++ [(.ack, memRead s.mem s.readSlot.base)] }) ∧
    (s.readSlot.len = 0 →
      exec i s = .next { s with
        role := .targetTransmit
        curSpace := .mem
        cursor := s.readSlot.base
        limit := s.readSlot.base
        transferredCount := 0
        lifecycle := .active
        data := 0xFF
        cmd := 0x05
        flags := flagsWord false (flagStopp s.flags)
        busLog := s.busLog ++ [(.nack, 0xFF)] })

/-- R105, R109: an ACKed byte is followed by the next one with ACK, or by 0xFF with NACK when the buffer
is exhausted; the count is not changed. The cursor may be 2^AW after the last byte of memory (the model's
inference, log 7). -/
def Obligations.TransmitAckSendsTheNextTargetByte : Prop :=
  ∀ s : State, Inv s →
    (s.cursor < s.limit →
      exec .evTtDataAck s = .next { s with
        data := segRead s.curSpace s.cursor s
        cursor := s.cursor + 1
        cmd := 0x04
        flags := flagsWord false (flagStopp s.flags)
        busLog := s.busLog ++ [(.ack, segRead s.curSpace s.cursor s)] }) ∧
    (s.limit ≤ s.cursor →
      exec .evTtDataAck s = .next { s with
        data := 0xFF
        cmd := 0x05
        flags := flagsWord false (flagStopp s.flags)
        busLog := s.busLog ++ [(.nack, 0xFF)] })

/-- R106, R110, R111: a target-transmit ends with an ACK command and lifecycle IDLE, with no stop, no
wait, no notification and the filter left armed. -/
def Obligations.TargetTransmitEndsIdle : Prop :=
  ∀ (s : State) (i : Instr), i ∈ [Instr.evTtDataNack, .evTtLastData] →
    exec i s = .next { s with
      cmd := 0x04
      flags := flagsWord false (flagStopp s.flags)
      busLog := s.busLog ++ [(.ack, s.data)]
      lifecycle := .idle }

/-- R112, R114 to R117: a selection for a write resets the walk to the WRITE slot, zeroes the count,
asks ACK and enters ACTIVE as target-receive. -/
def Obligations.ReceiveSelectionLatchesTheWriteSlot : Prop :=
  ∀ (s : State) (i : Instr),
    i ∈ [Instr.evTrAddrAck, .evTrArbLostAddrAck, .evTrGcallAck, .evTrArbLostGcallAck] →
    exec i s = .next { s with
      role := .targetReceive
      curSpace := .mem
      cursor := s.writeSlot.base
      limit := s.writeSlot.base + s.writeSlot.len
      transferredCount := 0
      cmd := 0x04
      flags := flagsWord false (flagStopp s.flags)
      busLog := s.busLog ++ [(.ack, s.data)]
      lifecycle := .active }

/-- R113, R118, R119: a received byte is stored, counted and ACKed while room remains, else discarded
and NACKed. Memory is seen through `memRead`. Where the byte is counted, a premise says that the sum
stays inside CW bits (R8). The cursor may be 2^AW after the last byte of memory (the model's
inference, log 7). Whether a cursor in the header store writes it is a parameter (the model's choice,
log 24). -/
def Obligations.TargetReceiveStoresOrDiscards : Prop :=
  ∀ (s : State) (i : Instr), i ∈ [Instr.evTrDataAck, .evTrGcallDataAck] → Inv s →
    (s.cursor < s.limit → s.transferredCount + 1 < 2 ^ (s.params.cw - 1) →
      ∃ t, exec i s = .next t ∧
        t = { s with
          mem := t.mem
          hdr0 := if s.curSpace = .hdr ∧ s.cursor = 0 ∧ s.params.receiveWritesHdr = true
            then s.data else s.hdr0
          hdr1 := if s.curSpace = .hdr ∧ s.cursor = 1 ∧ s.params.receiveWritesHdr = true
            then s.data else s.hdr1
          cursor := s.cursor + 1
          transferredCount := s.transferredCount + 1
          cmd := 0x04
          flags := flagsWord false (flagStopp s.flags)
          busLog := s.busLog ++ [(.ack, s.data)] } ∧
        ∀ a, memRead t.mem a =
          if s.curSpace = .mem ∧ a = s.cursor then s.data else memRead s.mem a) ∧
    (s.limit ≤ s.cursor →
      exec i s = .next { s with
        cmd := 0x05
        flags := flagsWord false (flagStopp s.flags)
        busLog := s.busLog ++ [(.nack, s.data)] })

/-- R120, R140: a target-receive stop, after the wait, sets lifecycle IDLE, turns the filter off and
posts the count to the notify target; with nobody registered nothing is posted, and with a full slot
the block faults NOTIFY_OVERRUN in the wait. `t` is as in `ErrorPathEndsInError` (log 5). -/
def Obligations.TargetStopPostsTheCount : Prop :=
  ∀ (s : State) (ts : List Turn), s.fault = none →
    ∃ t, exec .evTrStop s = .next t ∧
      step { t with flags := flagsWord false false, turns := .agent .sequencer :: ts } =
        .next { s with
          cmd := 0x02
          flags := flagsWord false false
          busLog := s.busLog ++ [(.stop, s.data)]
          turns := ts
          lifecycle := .idle
          taddr := 0x00
          nslot :=
            if s.notifyTarget = Recipient.null ∨ s.nslot.full = true then s.nslot
            else ⟨true, s.notifyTarget, s.transferredCount⟩
          phase :=
            if s.notifyTarget ≠ Recipient.null ∧ s.nslot.full = true then .waitStop .kTrDone
            else .ready
          fault :=
            if s.notifyTarget ≠ Recipient.null ∧ s.nslot.full = true then some .notifyOverrun
            else none }

/-- R127: the five unrecognized codes issue IDLE and write nothing else. -/
def Obligations.UnrecognizedCodesOnlyIssueIdle : Prop :=
  ∀ (s : State) (i : Instr),
    i ∈ [Instr.evUnrecognizedD0, .evUnrecognizedD8, .evUnrecognizedE0, .evUnrecognizedE8,
      .evUnrecognizedF0] →
    exec i s = .next { s with
      cmd := 0x00
      flags := flagsWord false (flagStopp s.flags)
      busLog := s.busLog ++ [(.idle, s.data)] }

/-! ## Host operations -/

/-- R128: `begin` in controller mode, in target mode, and its three rejections. -/
def Obligations.BeginConfiguresOrReturnsFalse : Prop :=
  ∀ (s : State) (notify : Recipient) (a : Byte),
    (s.lifecycle = .active ∨ (a ≠ 0 ∧ notify = Recipient.null) ∨ 127 < a.toNat →
      exec (.begin notify a) s = .next { s with hostLog := s.hostLog ++ [.result false] }) ∧
    (s.lifecycle ≠ .active → a = 0 →
      exec (.begin notify a) s = .next { s with
        notifyTarget := notify
        ownAddress := 0
        ctrl := 0x07
        div := s.params.divValue
        taddr := 0x00
        cmd := 0x00
        flags := flagsWord false (flagStopp s.flags)
        busLog := s.busLog ++ [(.idle, s.data)]
        hostLog := s.hostLog ++ [.result true] }) ∧
    (s.lifecycle ≠ .active → a ≠ 0 → notify ≠ Recipient.null → a.toNat ≤ 127 →
      exec (.begin notify a) s = .next { s with
        notifyTarget := notify
        ownAddress := a.extractLsb' 0 7
        ctrl := ctrlWord true true (ctrlPullup s.ctrl)
        taddr := a <<< 1
        cmd := 0x00
        flags := flagsWord false (flagStopp s.flags)
        busLog := s.busLog ++ [(.idle, s.data)]
        hostLog := s.hostLog ++ [.result true] })

/-- R129: `end` disables the engine and drops a pending event, faults while ACTIVE, and a second `end`
only repeats the first's writes. -/
def Obligations.EndDisablesTheEngine : Prop :=
  ∀ s : State,
    (s.lifecycle ≠ .active →
      exec .endOp s = .next { s with
        notifyTarget := Recipient.null
        ctrl := 0x00
        flags := flagsWord false (flagStopp s.flags)
        hostLog := s.hostLog ++ [.none] }) ∧
    (s.lifecycle = .active →
      exec .endOp s = .next { s with fault := some .hostContractEndActive }) ∧
    (∀ t, s.lifecycle ≠ .active → exec .endOp s = .next t →
      exec .endOp t = .next { t with hostLog := t.hostLog ++ [.none] })

/-- R130, R131: `request` is turned away while ACTIVE or with the engine off, faults on a vector that
breaks the host contract, and otherwise starts the transaction. The vector has 1 to N + 1 entries
(R67): `e` and `es`. -/
def Obligations.RequestStartsOrReturnsFalseOrFaults : Prop :=
  ∀ (s : State) (ab : Byte) (e : Segment) (es : List Segment), es.length ≤ s.params.n →
    (s.lifecycle = .active ∨ ctrlEn s.ctrl = false →
      exec (.request ab (e :: es)) s = .next { s with hostLog := s.hostLog ++ [.result false] }) ∧
    (s.lifecycle ≠ .active → ctrlEn s.ctrl = true →
      ((∀ x ∈ e :: es, x.space = .mem ∧ x.base + x.len ≤ 2 ^ s.params.aw) ∧
        (∃ x ∈ e :: es, x.len = 0) ∧
        (((e :: es).takeWhile (fun x => x.len ≠ 0)).map Segment.len).sum ≤ s.params.countMax →
        exec (.request ab (e :: es)) s = .next { s with
          iov := e :: es ++ List.replicate (s.params.n - es.length) ⟨.mem, 0, 0⟩
          segmentIndex := 0
          curSpace := e.space
          cursor := e.base
          limit := e.base + e.len
          transferredCount := 0
          address := ab
          role := if ab.getLsbD 0 then .controllerReceive else .controllerTransmit
          lifecycle := .active
          cmd := 0x01
          flags := flagsWord false (flagStopp s.flags)
          busLog := s.busLog ++ [(.start, s.data)]
          hostLog := s.hostLog ++ [.result true] }) ∧
      (¬((∀ x ∈ e :: es, x.space = .mem ∧ x.base + x.len ≤ 2 ^ s.params.aw) ∧
        (∃ x ∈ e :: es, x.len = 0) ∧
        (((e :: es).takeWhile (fun x => x.len ≠ 0)).map Segment.len).sum ≤ s.params.countMax) →
        exec (.request ab (e :: es)) s = .next { s with fault := some .hostContractVec }))

/-- R132, R135: `write_request` and `read_request` are `request` over the address byte of R63 and the
payload vector of R66: the direction bit is 0 or 1 and the role follows it. -/
def Obligations.PlainTransfersRequestOnePayload : Prop :=
  ∀ (s : State) (a : BitVec 7) (buf size : Nat) (i : Instr) (rw : BitVec 1) (r : Role),
    2 ≤ s.params.n →
    (i, rw, r) ∈ [(Instr.writeRequest a buf size, (0 : BitVec 1), Role.controllerTransmit),
      (.readRequest a buf size, 1, .controllerReceive)] →
    (s.lifecycle = .active ∨ ctrlEn s.ctrl = false →
      exec i s = .next { s with hostLog := s.hostLog ++ [.result false] }) ∧
    (s.lifecycle ≠ .active → ctrlEn s.ctrl = true →
      (buf + size ≤ 2 ^ s.params.aw ∧ size ≤ s.params.countMax →
        exec i s = .next { s with
          iov := [⟨.mem, buf, size⟩, ⟨.mem, 0, 0⟩] ++ List.replicate (s.params.n - 1) ⟨.mem, 0, 0⟩
          segmentIndex := 0
          curSpace := .mem
          cursor := buf
          limit := buf + size
          transferredCount := 0
          address := a ++ rw
          role := r
          lifecycle := .active
          cmd := 0x01
          flags := flagsWord false (flagStopp s.flags)
          busLog := s.busLog ++ [(.start, s.data)]
          hostLog := s.hostLog ++ [.result true] }) ∧
      (2 ^ s.params.aw < buf + size ∨ s.params.countMax < size →
        exec i s = .next { s with fault := some .hostContractVec }))

/-- R133: a write with an 8-bit header latches it only when accepted, and counts it against COUNT_MAX. -/
def Obligations.ByteHeaderIsLatchedOnAcceptance : Prop :=
  ∀ (s : State) (a : BitVec 7) (h : Byte) (buf size : Nat), 2 ≤ s.params.n →
    (s.lifecycle = .active ∨ ctrlEn s.ctrl = false →
      exec (.writeRequestH8 a h buf size) s =
        .next { s with hostLog := s.hostLog ++ [.result false] }) ∧
    (s.lifecycle ≠ .active → ctrlEn s.ctrl = true →
      (buf + size ≤ 2 ^ s.params.aw ∧ 1 + size ≤ s.params.countMax →
        exec (.writeRequestH8 a h buf size) s = .next { s with
          hdr0 := h
          iov := [⟨.hdr, 0, 1⟩, ⟨.mem, buf, size⟩, ⟨.mem, 0, 0⟩] ++
            List.replicate (s.params.n - 2) ⟨.mem, 0, 0⟩
          segmentIndex := 0
          curSpace := .hdr
          cursor := 0
          limit := 1
          transferredCount := 0
          address := a ++ (0 : BitVec 1)
          role := .controllerTransmit
          lifecycle := .active
          cmd := 0x01
          flags := flagsWord false (flagStopp s.flags)
          busLog := s.busLog ++ [(.start, s.data)]
          hostLog := s.hostLog ++ [.result true] }) ∧
      (2 ^ s.params.aw < buf + size ∨ s.params.countMax < 1 + size →
        exec (.writeRequestH8 a h buf size) s = .next { s with fault := some .hostContractVec }))

/-- R134: a write with a 16-bit header latches it most significant byte first, as R133. -/
def Obligations.WordHeaderIsLatchedHighByteFirst : Prop :=
  ∀ (s : State) (a : BitVec 7) (hi lo : Byte) (buf size : Nat), 2 ≤ s.params.n →
    (s.lifecycle = .active ∨ ctrlEn s.ctrl = false →
      exec (.writeRequestH16 a (hi ++ lo) buf size) s =
        .next { s with hostLog := s.hostLog ++ [.result false] }) ∧
    (s.lifecycle ≠ .active → ctrlEn s.ctrl = true →
      (buf + size ≤ 2 ^ s.params.aw ∧ 2 + size ≤ s.params.countMax →
        exec (.writeRequestH16 a (hi ++ lo) buf size) s = .next { s with
          hdr0 := hi
          hdr1 := lo
          iov := [⟨.hdr, 0, 2⟩, ⟨.mem, buf, size⟩, ⟨.mem, 0, 0⟩] ++
            List.replicate (s.params.n - 2) ⟨.mem, 0, 0⟩
          segmentIndex := 0
          curSpace := .hdr
          cursor := 0
          limit := 2
          transferredCount := 0
          address := a ++ (0 : BitVec 1)
          role := .controllerTransmit
          lifecycle := .active
          cmd := 0x01
          flags := flagsWord false (flagStopp s.flags)
          busLog := s.busLog ++ [(.start, s.data)]
          hostLog := s.hostLog ++ [.result true] }) ∧
      (2 ^ s.params.aw < buf + size ∨ s.params.countMax < 2 + size →
        exec (.writeRequestH16 a (hi ++ lo) buf size) s =
          .next { s with fault := some .hostContractVec }))

/-- R136: `await_completed` returns the count once the lifecycle is not ACTIVE. R10: called while it is
ACTIVE it ends in a hold, and in the hold the host has no enabled step of any kind (R9), so the
operation stays at the port. That `awaiting` records the call is the model's inference (logs 13, 22),
and the turn that passes is its choice (log 5). -/
def Obligations.AwaitReturnsTheCountOrHolds : Prop :=
  (∀ (s : State) (m : SleepMode), s.lifecycle ≠ .active →
    exec (.awaitCompleted m) s =
      .next { s with hostLog := s.hostLog ++ [.count s.transferredCount] }) ∧
  ∀ (s : State) (ts : List Turn) (m : SleepMode) (rest : List Byte),
    s.fault = none → s.lifecycle = .active →
    decodeHostOp s.params s.port = .ok (.awaitCompleted m, rest) →
    (s.turns = .agent .host :: ts → s.phase = .ready →
      step s = .next { s with turns := ts, awaiting := true }) ∧
    (s.awaiting = true →
      (s.turns = .agent .host :: ts → step s = .next { s with turns := ts }) ∧
      (∀ a v, s.turns = .agent (.hostStore a v) :: ts → step s = .next { s with turns := ts }) ∧
      (∀ bs, s.turns = .agent (.hostProgram bs) :: ts → step s = .next { s with turns := ts }))

/-- R137, R138, R139: a slot inside the address space and within COUNT_MAX is installed, any other
faults; whatever the lifecycle. -/
def Obligations.SlotsAreInstalledOrFault : Prop :=
  ∀ (s : State) (buf size : Nat),
    (buf + size ≤ 2 ^ s.params.aw ∧ size ≤ s.params.countMax →
      exec (.setWriteBuf buf size) s =
        .next { s with writeSlot := ⟨buf, size⟩, hostLog := s.hostLog ++ [.none] } ∧
      exec (.setReadBuf buf size) s =
        .next { s with readSlot := ⟨buf, size⟩, hostLog := s.hostLog ++ [.none] }) ∧
    (2 ^ s.params.aw < buf + size ∨ s.params.countMax < size →
      exec (.setWriteBuf buf size) s = .next { s with fault := some .hostContractBuf } ∧
      exec (.setReadBuf buf size) s = .next { s with fault := some .hostContractBuf })

/-- R141: `dispatch` delivers the notification with the WRITE slot's base as it is now, empties the slot
and arms the filter again; an empty slot returns false and touches nothing. -/
def Obligations.DispatchDeliversAndRearms : Prop :=
  ∀ s : State,
    (s.nslot.full = true →
      exec .dispatch s = .next { s with
        nslot := ⟨false, Recipient.null, 0⟩
        taddr := s.ownAddress ++ (0 : BitVec 1)
        hostLog := s.hostLog ++
          [.onRequest s.nslot.recipient s.writeSlot.base s.nslot.count, .result true] }) ∧
    (s.nslot.full = false →
      exec .dispatch s = .next { s with hostLog := s.hostLog ++ [.result false] })

/-- R94 to R96, R132, R89 and the always-ACK property R132 quotes: an accepted write whose START,
address and every byte are ACKed puts the address byte and then the `size` bytes of the buffer on the
wire in ascending order, counts `size`, and ends in the stop wait to IDLE; memory is unchanged. A buffer
may end at 2^AW, where the cursor then stands (the model's inference, log 7). -/
def Obligations.AlwaysAckedWriteSendsEveryByte : Prop :=
  ∀ (s : State) (a : BitVec 7) (buf size : Nat),
    Inv s → s.lifecycle ≠ .active → ctrlEn s.ctrl = true →
    buf < 2 ^ s.params.aw → size < 2 ^ s.params.lw →
    buf + size ≤ 2 ^ s.params.aw → size ≤ s.params.countMax →
    ∃ t, execAll
        (.writeRequest a buf size :: .evStart :: .evCtAddrAck :: List.replicate size .evCtDataAck) s =
          .next t ∧
      t.phase = .waitStop .kIdle ∧ t.transferredCount = size ∧ t.lifecycle = .active ∧
      t.mem = s.mem ∧
      t.busLog = s.busLog ++ [(.start, s.data), (.data, a ++ (0 : BitVec 1))] ++
        (List.range size).map (fun k => (Command.data, memRead s.mem (buf + k))) ++ [(.stop, t.data)]

/-! ## Rules over all instructions -/

/-- R88, R145: an event either issues exactly one command, which clears INTF and is logged, or faults
BUFFER_OVERRUN and writes nothing else. -/
def Obligations.EveryEventIssuesOneCommandOrFaults : Prop :=
  ∀ (i : Instr) (s u : State), i.format = .status → exec i s = .next u →
    (∃ c d, u.busLog = s.busLog ++ [(c, d)] ∧ u.cmd = c.code ∧ u.data = d ∧
      flagIntf u.flags = false ∧ u.fault = s.fault) ∨
    u = { s with fault := some .bufferOverrun }

/-- R86: an event's transition is chosen by the event alone: `role` and `lifecycle` are no inputs. Two
runs that differ only in them end in states that differ at most in them. -/
def Obligations.TransitionsIgnoreRoleAndLifecycle : Prop :=
  ∀ (i : Instr) (s u : State) (r : Role) (l : Lifecycle), i.format = .status → exec i s = .next u →
    ∃ v, exec i { s with role := r, lifecycle := l } = .next v ∧
      { v with role := u.role, lifecycle := u.lifecycle } = u

/-- R40, R41: no rule reads `bus_log` or `host_log`. Two runs of an instruction that differ only in the
logs end in states that differ only in the logs, and append the same to them. -/
def Obligations.LogsAreObservationOnly : Prop :=
  ∀ (i : Instr) (s u : State) (b : List (Command × Byte)) (h : List HostRecord),
    exec i s = .next u →
    ∃ db dh, u.busLog = s.busLog ++ db ∧ u.hostLog = s.hostLog ++ dh ∧
      exec i { s with busLog := b, hostLog := h } =
        .next { u with busLog := b ++ db, hostLog := h ++ dh }

/-- R44, R47: an instruction that answers a next state leaves every byte of data memory as it was,
except that the four receive events may put DATA at the cursor's address. R34, R153: the header store is
written by an accepted write with a header alone, or, at one setting of the model's own parameter
(log 24), by those receive events while their walk stands in it (R101). -/
def Obligations.OnlyReceiveEventsStoreInMemory : Prop :=
  (∀ (i : Instr) (s u : State) (a : Nat), Memory.wf s.mem → exec i s = .next u →
    memRead u.mem a = memRead s.mem a ∨
      (i ∈ [Instr.evCrDataAck, .evCrDataNack, .evTrDataAck, .evTrGcallDataAck] ∧
        s.curSpace = .mem ∧ a = s.cursor ∧ s.cursor < s.limit ∧ memRead u.mem a = s.data)) ∧
  ∀ (i : Instr) (s u : State), exec i s = .next u →
    (u.hdr0 = s.hdr0 ∧ u.hdr1 = s.hdr1) ∨
      (((∃ a h b n, i = .writeRequestH8 a h b n) ∨ ∃ a h b n, i = .writeRequestH16 a h b n) ∧
        u.hostLog = s.hostLog ++ [.result true]) ∨
      (i ∈ [Instr.evCrDataAck, .evCrDataNack, .evTrDataAck, .evTrGcallDataAck] ∧
        s.curSpace = .hdr ∧ s.params.receiveWritesHdr = true)

/-- R42 b: a step enters ACTIVE only by an accepted request or by a target-selection event. `v` is the
state in which the turn is taken. -/
def Obligations.ActiveIsEnteredByRequestOrSelection : Prop :=
  ∀ s u : State, step s = .next u → s.lifecycle ≠ .active → u.lifecycle = .active →
    let v := (nextTurn s).2
    (turnOf s = .agent .sequencer ∧ v.phase = .ready ∧
      decodeStatus v.params v.status ∈ [Instr.evTtAddrAck, .evTtArbLostAddrAck, .evTrAddrAck,
        .evTrArbLostAddrAck, .evTrGcallAck, .evTrArbLostGcallAck]) ∨
    (turnOf s = .agent .host ∧ u.hostLog = s.hostLog ++ [.result true] ∧
      ∃ i rest, decodeHostOp v.params v.port = .ok (i, rest) ∧
        ((∃ ab vec, i = .request ab vec) ∨ (∃ a b n, i = .writeRequest a b n) ∨
          (∃ a h b n, i = .writeRequestH8 a h b n) ∨ (∃ a h b n, i = .writeRequestH16 a h b n) ∨
          ∃ a b n, i = .readRequest a b n))

/-- R42 c: a step leaves ACTIVE only in the sequencer's turn: after a stop wait, on an arbitration loss,
or at the end of a target-transmit. `v` is the state in which the turn is taken. -/
def Obligations.ActiveIsLeftOnlyByTheSequencer : Prop :=
  ∀ s u : State, step s = .next u → s.lifecycle = .active → u.lifecycle ≠ .active →
    let v := (nextTurn s).2
    turnOf s = .agent .sequencer ∧
      ((∃ k, v.phase = .waitStop k) ∨
        (v.phase = .ready ∧
          decodeStatus v.params v.status ∈ [Instr.evArbLost, .evTtDataNack, .evTtLastData]))

/-- R42 d, R162: while ACTIVE no host operation writes the transaction's state. -/
def Obligations.HostCannotChangeAnActiveTransaction : Prop :=
  ∀ (i : Instr) (s u : State), i.format = .hostOp → s.lifecycle = .active → exec i s = .next u →
    u.iov = s.iov ∧ u.cursor = s.cursor ∧ u.curSpace = s.curSpace ∧ u.limit = s.limit ∧
      u.segmentIndex = s.segmentIndex ∧ u.transferredCount = s.transferredCount ∧
      u.hdr0 = s.hdr0 ∧ u.hdr1 = s.hdr1 ∧ u.address = s.address ∧ u.role = s.role ∧
      u.lifecycle = .active

/-- R26, R27, R148: the encoded values of `role`, `lifecycle` and the fault reasons, and that
`lifecycle > IDLE` is ACTIVE. -/
def Obligations.EncodedValuesOfState : Prop :=
  (roleCode .none = 0 ∧ roleCode .controllerTransmit = 1 ∧ roleCode .controllerReceive = 2 ∧
    roleCode .targetTransmit = 3 ∧ roleCode .targetReceive = 4) ∧
  (lifecycleCode .error = -1 ∧ lifecycleCode .idle = 0 ∧ lifecycleCode .active = 1 ∧
    ∀ l, lifecycleCode l > lifecycleCode .idle ↔ l = .active) ∧
  (faultCode .bufferOverrun = 1 ∧ faultCode .hostContractVec = 2 ∧
    faultCode .hostContractEndActive = 3 ∧ faultCode .hostContractBuf = 4 ∧
    faultCode .notifyOverrun = 5)
end

