-- ==== Sys2Proof/Laws/Flags.lean ====
section
/-!
SUPPORT. What the fields of FLAGS and CTRL read as after each way the machine writes those registers.
-/

namespace Sys2Proof.Machine

@[simp] theorem flagIntf_flagsWord (i t : Bool) : flagIntf (flagsWord i t) = i := by
  cases i <;> cases t <;> rfl

@[simp] theorem flagStopp_flagsWord (i t : Bool) : flagStopp (flagsWord i t) = t := by
  cases i <;> cases t <;> rfl

/-- FLAGS[7:2] reads 0 (spec/10_state.md R25). -/
@[simp] theorem flagsWord_reserved (i t : Bool) : flagsWord i t &&& 252#8 = 0#8 := by
  cases i <;> cases t <;> rfl

@[simp] theorem ctrlEn_ctrlWord (e i p : Bool) : ctrlEn (ctrlWord e i p) = e := by
  cases e <;> cases i <;> cases p <;> rfl

@[simp] theorem ctrlIe_ctrlWord (e i p : Bool) : ctrlIe (ctrlWord e i p) = i := by
  cases e <;> cases i <;> cases p <;> rfl

@[simp] theorem ctrlPullup_ctrlWord (e i p : Bool) : ctrlPullup (ctrlWord e i p) = p := by
  cases e <;> cases i <;> cases p <;> rfl

/-- CTRL[7:3] is written 0 (spec/10_state.md R24). -/
@[simp] theorem ctrlWord_reserved (e i p : Bool) : ctrlWord e i p &&& 248#8 = 0#8 := by
  cases e <;> cases i <;> cases p <;> rfl

/-- `lifecycle > IDLE` exactly when ACTIVE (spec/10_state.md R27). -/
theorem lifecycleCode_pos (l : Lifecycle) : 0 < lifecycleCode l ↔ l = .active := by
  cases l <;> decide

/-- A count one below the top of the format or lower goes up by one. -/
theorem countSucc_eq (p : Params) (c : Int) (hw : 1 ≤ p.cw) (hlo : -2 ^ (p.cw - 1) ≤ c)
    (hhi : c + 1 < 2 ^ (p.cw - 1)) : countSucc p c = c + 1 := by
  obtain ⟨k, hk⟩ : ∃ k, p.cw = k + 1 := ⟨p.cw - 1, by omega⟩
  rw [hk] at hlo hhi
  unfold countSucc
  rw [hk]
  simp only [Nat.add_sub_cancel] at hlo hhi
  have hp : ((2 : Nat) ^ (k + 1) : Int) = 2 * 2 ^ k := by rw [pow_succ]; ring
  apply Int.bmod_eq_of_le <;> push_cast <;> omega

/-- The count stays a signed CW-bit value. -/
theorem countSucc_range (p : Params) (c : Int) (hw : 1 ≤ p.cw) :
    -2 ^ (p.cw - 1) ≤ countSucc p c ∧ countSucc p c < 2 ^ (p.cw - 1) := by
  obtain ⟨k, hk⟩ : ∃ k, p.cw = k + 1 := ⟨p.cw - 1, by omega⟩
  unfold countSucc
  rw [hk]
  have hp : ((2 : Nat) ^ (k + 1) : Int) = 2 * 2 ^ k := by rw [pow_succ]; ring
  have hpos : (0 : Int) < 2 ^ k := by positivity
  have h0 : 0 < 2 ^ (k + 1) := by positivity
  have h1 := Int.le_bmod (x := c + 1) h0
  have h2 := Int.bmod_lt (x := c + 1) h0
  push_cast at h1 h2
  simp only [Nat.add_sub_cancel]
  constructor <;> omega

end Sys2Proof.Machine
end

