-- ==== Sys2Proof/Laws/Memory.lean ====
section
/-!
SUPPORT. The laws of data memory: a read after a write, and that every write keeps the canonical form
(spec/20_memory.md R44).
-/

namespace Sys2Proof.Machine

/-- What `memCons` puts in front reads back, whatever follows. -/
theorem memRead_memCons_same (a : Nat) (v : Byte) (m : Memory) (h : memRead m a = memUnlisted a) :
    memRead (memCons a v m) a = v := by
  unfold memCons
  split
  · rw [h]; exact Eq.symm ‹_›
  · simp [memRead]

theorem memRead_memCons_other (a b : Nat) (v : Byte) (m : Memory) (h : b ≠ a) :
    memRead (memCons a v m) b = memRead m b := by
  unfold memCons
  split
  · rfl
  · simp [memRead, h]

/-- An address below every listed one is unlisted. -/
theorem memRead_below (m : Memory) (a : Nat) (h : ∀ c ∈ m, a < c.1) :
    memRead m a = memUnlisted a := by
  induction m with
  | nil => rfl
  | cons c m ih =>
    obtain ⟨b, w⟩ := c
    have hb : a < b := h (b, w) (by simp)
    rw [memRead, if_neg (by omega)]
    exact ih fun c hc => h c (by simp [hc])

/-- A read after a write to the same address gives the byte written. -/
theorem memRead_memWrite_same (m : Memory) (a : Nat) (v : Byte) (h : Memory.wf m) :
    memRead (memWrite m a v) a = v := by
  induction m with
  | nil => exact memRead_memCons_same a v [] rfl
  | cons c m ih =>
    obtain ⟨b, w⟩ := c
    obtain ⟨hs, hz⟩ := h
    rw [List.pairwise_cons] at hs
    have ih := ih ⟨hs.2, fun c hc => hz c (by simp [hc])⟩
    simp only [memWrite]
    split
    · next hab =>
      refine memRead_memCons_same a v _ (memRead_below _ a fun c hc => ?_)
      rcases List.mem_cons.mp hc with rfl | hc
      · exact hab
      · exact Nat.lt_trans hab (hs.1 c hc)
    · split
      · next hab =>
        subst hab
        exact memRead_memCons_same a v _ (memRead_below _ a hs.1)
      · next hab => rw [memRead, if_neg hab]; exact ih

/-- A write leaves every other address alone. -/
theorem memRead_memWrite_other (m : Memory) (a b : Nat) (v : Byte) (h : b ≠ a) :
    memRead (memWrite m a v) b = memRead m b := by
  induction m with
  | nil => exact memRead_memCons_other a b v [] h
  | cons c m ih =>
    obtain ⟨x, w⟩ := c
    simp only [memWrite]
    split
    · exact memRead_memCons_other a b v _ h
    · split
      · next hax => subst hax; rw [memRead_memCons_other a b v m h, memRead, if_neg h]
      · simp only [memRead, ih]

/-- A listed address after a write was listed before, or is the one written. -/
theorem mem_memWrite (m : Memory) (a : Nat) (v : Byte) (c : Host.Cell) (h : c ∈ memWrite m a v) :
    c.1 = a ∨ c ∈ m := by
  have cons : ∀ m', c ∈ memCons a v m' → c.1 = a ∨ c ∈ m' := by
    intro m' hc
    unfold memCons at hc
    split at hc
    · exact .inr hc
    · rcases List.mem_cons.mp hc with rfl | hc
      · exact .inl rfl
      · exact .inr hc
  induction m with
  | nil => exact cons [] h
  | cons x m ih =>
    obtain ⟨b, w⟩ := x
    simp only [memWrite] at h
    split at h
    · exact cons _ h
    · split at h
      · rcases cons _ h with h | h
        · exact .inl h
        · exact .inr (by simp [h])
      · rcases List.mem_cons.mp h with rfl | h
        · exact .inr (by simp)
        · rcases ih h with h | h
          · exact .inl h
          · exact .inr (by simp [h])

/-- A write keeps the canonical form. -/
theorem memWrite_wf (m : Memory) (a : Nat) (v : Byte) (h : Memory.wf m) :
    Memory.wf (memWrite m a v) := by
  have cons : ∀ m', Memory.wf m' → (∀ c ∈ m', a < c.1) → Memory.wf (memCons a v m') := by
    rintro m' ⟨hs, hz⟩ hlt
    unfold memCons
    split
    · exact ⟨hs, hz⟩
    · next hv =>
      refine ⟨List.pairwise_cons.mpr ⟨hlt, hs⟩, fun c hc => ?_⟩
      rcases List.mem_cons.mp hc with rfl | hc
      · exact hv
      · exact hz c hc
  induction m with
  | nil => exact cons [] h (by simp)
  | cons x m ih =>
    obtain ⟨b, w⟩ := x
    obtain ⟨hs, hz⟩ := h
    have hs' := List.pairwise_cons.mp hs
    have hz' : ∀ c ∈ m, c.2 ≠ memUnlisted c.1 := fun c hc => hz c (by simp [hc])
    simp only [memWrite]
    split
    · next hab =>
      refine cons _ ⟨hs, hz⟩ fun c hc => ?_
      rcases List.mem_cons.mp hc with rfl | hc
      · exact hab
      · exact Nat.lt_trans hab (hs'.1 c hc)
    · split
      · next hab => subst hab; exact cons _ ⟨hs'.2, hz'⟩ hs'.1
      · next hlt hne =>
        obtain ⟨is, iz⟩ := ih ⟨hs'.2, hz'⟩
        refine ⟨List.pairwise_cons.mpr ⟨fun c hc => ?_, is⟩, fun c hc => ?_⟩
        · rcases mem_memWrite m a v c hc with h | h
          · simp only at *; omega
          · exact hs'.1 c h
        · rcases List.mem_cons.mp hc with rfl | hc
          · exact hz (b, w) (by simp)
          · exact iz c hc

/-- Memory is canonical right after reset. -/
theorem reset_memory_wf : Memory.wf State.reset.mem := by decide

/-- A write through the cursor keeps the form; the host's own store is `memWrite` itself. -/
theorem segWrite_wf (sp : Space) (a : Nat) (v : Byte) (s : State) (h : Memory.wf s.mem) :
    Memory.wf (segWrite sp a v s).mem := by
  cases sp with
  | mem => exact memWrite_wf s.mem a v h
  | hdr => unfold segWrite; dsimp only; (repeat' split) <;> exact h

end Sys2Proof.Machine
end

