-- ==== Sys2Proof/Laws/State.lean ====
section
/-!
SUPPORT. What each field reads as after each shared update of the state, true by `rfl`, so that no
proof unfolds a record update.
-/

namespace Sys2Proof.Machine

variable (s : State)

/-! ## `issue` -/

@[simp] theorem issue_params (c : Command) : (issue c s).params = s.params := rfl
@[simp] theorem issue_status (c : Command) : (issue c s).status = s.status := rfl
@[simp] theorem issue_cmd (c : Command) : (issue c s).cmd = c.code := rfl
@[simp] theorem issue_data (c : Command) : (issue c s).data = s.data := rfl
@[simp] theorem issue_taddr (c : Command) : (issue c s).taddr = s.taddr := rfl
@[simp] theorem issue_div (c : Command) : (issue c s).div = s.div := rfl
@[simp] theorem issue_ctrl (c : Command) : (issue c s).ctrl = s.ctrl := rfl
@[simp] theorem issue_flags (c : Command) : (issue c s).flags = flagsWord false (decide (c = .stop) || flagStopp s.flags) := rfl
@[simp] theorem issue_role (c : Command) : (issue c s).role = s.role := rfl
@[simp] theorem issue_lifecycle (c : Command) : (issue c s).lifecycle = s.lifecycle := rfl
@[simp] theorem issue_address (c : Command) : (issue c s).address = s.address := rfl
@[simp] theorem issue_iov (c : Command) : (issue c s).iov = s.iov := rfl
@[simp] theorem issue_segmentIndex (c : Command) : (issue c s).segmentIndex = s.segmentIndex := rfl
@[simp] theorem issue_cursor (c : Command) : (issue c s).cursor = s.cursor := rfl
@[simp] theorem issue_curSpace (c : Command) : (issue c s).curSpace = s.curSpace := rfl
@[simp] theorem issue_limit (c : Command) : (issue c s).limit = s.limit := rfl
@[simp] theorem issue_transferredCount (c : Command) : (issue c s).transferredCount = s.transferredCount := rfl
@[simp] theorem issue_lastEvent (c : Command) : (issue c s).lastEvent = s.lastEvent := rfl
@[simp] theorem issue_hdr0 (c : Command) : (issue c s).hdr0 = s.hdr0 := rfl
@[simp] theorem issue_hdr1 (c : Command) : (issue c s).hdr1 = s.hdr1 := rfl
@[simp] theorem issue_readSlot (c : Command) : (issue c s).readSlot = s.readSlot := rfl
@[simp] theorem issue_writeSlot (c : Command) : (issue c s).writeSlot = s.writeSlot := rfl
@[simp] theorem issue_notifyTarget (c : Command) : (issue c s).notifyTarget = s.notifyTarget := rfl
@[simp] theorem issue_ownAddress (c : Command) : (issue c s).ownAddress = s.ownAddress := rfl
@[simp] theorem issue_nslot (c : Command) : (issue c s).nslot = s.nslot := rfl
@[simp] theorem issue_phase (c : Command) : (issue c s).phase = s.phase := rfl
@[simp] theorem issue_fault (c : Command) : (issue c s).fault = s.fault := rfl
@[simp] theorem issue_busLog (c : Command) : (issue c s).busLog = s.busLog ++ [(c, s.data)] := rfl
@[simp] theorem issue_hostLog (c : Command) : (issue c s).hostLog = s.hostLog := rfl
@[simp] theorem issue_mem (c : Command) : (issue c s).mem = s.mem := rfl
@[simp] theorem issue_port (c : Command) : (issue c s).port = s.port := rfl
@[simp] theorem issue_awaiting (c : Command) : (issue c s).awaiting = s.awaiting := rfl
@[simp] theorem issue_endless (c : Command) : (issue c s).endless = s.endless := rfl
@[simp] theorem issue_turns (c : Command) : (issue c s).turns = s.turns := rfl
@[simp] theorem issue_tick (c : Command) : (issue c s).tick = s.tick := rfl

/-! ## `raiseFault` -/

@[simp] theorem raiseFault_params (r : FaultReason) : (raiseFault r s).params = s.params := rfl
@[simp] theorem raiseFault_status (r : FaultReason) : (raiseFault r s).status = s.status := rfl
@[simp] theorem raiseFault_cmd (r : FaultReason) : (raiseFault r s).cmd = s.cmd := rfl
@[simp] theorem raiseFault_data (r : FaultReason) : (raiseFault r s).data = s.data := rfl
@[simp] theorem raiseFault_taddr (r : FaultReason) : (raiseFault r s).taddr = s.taddr := rfl
@[simp] theorem raiseFault_div (r : FaultReason) : (raiseFault r s).div = s.div := rfl
@[simp] theorem raiseFault_ctrl (r : FaultReason) : (raiseFault r s).ctrl = s.ctrl := rfl
@[simp] theorem raiseFault_flags (r : FaultReason) : (raiseFault r s).flags = s.flags := rfl
@[simp] theorem raiseFault_role (r : FaultReason) : (raiseFault r s).role = s.role := rfl
@[simp] theorem raiseFault_lifecycle (r : FaultReason) : (raiseFault r s).lifecycle = s.lifecycle := rfl
@[simp] theorem raiseFault_address (r : FaultReason) : (raiseFault r s).address = s.address := rfl
@[simp] theorem raiseFault_iov (r : FaultReason) : (raiseFault r s).iov = s.iov := rfl
@[simp] theorem raiseFault_segmentIndex (r : FaultReason) : (raiseFault r s).segmentIndex = s.segmentIndex := rfl
@[simp] theorem raiseFault_cursor (r : FaultReason) : (raiseFault r s).cursor = s.cursor := rfl
@[simp] theorem raiseFault_curSpace (r : FaultReason) : (raiseFault r s).curSpace = s.curSpace := rfl
@[simp] theorem raiseFault_limit (r : FaultReason) : (raiseFault r s).limit = s.limit := rfl
@[simp] theorem raiseFault_transferredCount (r : FaultReason) : (raiseFault r s).transferredCount = s.transferredCount := rfl
@[simp] theorem raiseFault_lastEvent (r : FaultReason) : (raiseFault r s).lastEvent = s.lastEvent := rfl
@[simp] theorem raiseFault_hdr0 (r : FaultReason) : (raiseFault r s).hdr0 = s.hdr0 := rfl
@[simp] theorem raiseFault_hdr1 (r : FaultReason) : (raiseFault r s).hdr1 = s.hdr1 := rfl
@[simp] theorem raiseFault_readSlot (r : FaultReason) : (raiseFault r s).readSlot = s.readSlot := rfl
@[simp] theorem raiseFault_writeSlot (r : FaultReason) : (raiseFault r s).writeSlot = s.writeSlot := rfl
@[simp] theorem raiseFault_notifyTarget (r : FaultReason) : (raiseFault r s).notifyTarget = s.notifyTarget := rfl
@[simp] theorem raiseFault_ownAddress (r : FaultReason) : (raiseFault r s).ownAddress = s.ownAddress := rfl
@[simp] theorem raiseFault_nslot (r : FaultReason) : (raiseFault r s).nslot = s.nslot := rfl
@[simp] theorem raiseFault_phase (r : FaultReason) : (raiseFault r s).phase = s.phase := rfl
@[simp] theorem raiseFault_fault (r : FaultReason) : (raiseFault r s).fault = some r := rfl
@[simp] theorem raiseFault_busLog (r : FaultReason) : (raiseFault r s).busLog = s.busLog := rfl
@[simp] theorem raiseFault_hostLog (r : FaultReason) : (raiseFault r s).hostLog = s.hostLog := rfl
@[simp] theorem raiseFault_mem (r : FaultReason) : (raiseFault r s).mem = s.mem := rfl
@[simp] theorem raiseFault_port (r : FaultReason) : (raiseFault r s).port = s.port := rfl
@[simp] theorem raiseFault_awaiting (r : FaultReason) : (raiseFault r s).awaiting = s.awaiting := rfl
@[simp] theorem raiseFault_endless (r : FaultReason) : (raiseFault r s).endless = s.endless := rfl
@[simp] theorem raiseFault_turns (r : FaultReason) : (raiseFault r s).turns = s.turns := rfl
@[simp] theorem raiseFault_tick (r : FaultReason) : (raiseFault r s).tick = s.tick := rfl

/-! ## `enterHandler` -/

@[simp] theorem enterHandler_params : (enterHandler s).params = s.params := rfl
@[simp] theorem enterHandler_status : (enterHandler s).status = s.status := rfl
@[simp] theorem enterHandler_cmd : (enterHandler s).cmd = s.cmd := rfl
@[simp] theorem enterHandler_data : (enterHandler s).data = s.data := rfl
@[simp] theorem enterHandler_taddr : (enterHandler s).taddr = s.taddr := rfl
@[simp] theorem enterHandler_div : (enterHandler s).div = s.div := rfl
@[simp] theorem enterHandler_ctrl : (enterHandler s).ctrl = s.ctrl := rfl
@[simp] theorem enterHandler_flags : (enterHandler s).flags = s.flags := rfl
@[simp] theorem enterHandler_role : (enterHandler s).role = s.role := rfl
@[simp] theorem enterHandler_lifecycle : (enterHandler s).lifecycle = s.lifecycle := rfl
@[simp] theorem enterHandler_address : (enterHandler s).address = s.address := rfl
@[simp] theorem enterHandler_iov : (enterHandler s).iov = s.iov := rfl
@[simp] theorem enterHandler_segmentIndex : (enterHandler s).segmentIndex = s.segmentIndex := rfl
@[simp] theorem enterHandler_cursor : (enterHandler s).cursor = s.cursor := rfl
@[simp] theorem enterHandler_curSpace : (enterHandler s).curSpace = s.curSpace := rfl
@[simp] theorem enterHandler_limit : (enterHandler s).limit = s.limit := rfl
@[simp] theorem enterHandler_transferredCount : (enterHandler s).transferredCount = s.transferredCount := rfl
@[simp] theorem enterHandler_lastEvent : (enterHandler s).lastEvent = statusCode s.status := rfl
@[simp] theorem enterHandler_hdr0 : (enterHandler s).hdr0 = s.hdr0 := rfl
@[simp] theorem enterHandler_hdr1 : (enterHandler s).hdr1 = s.hdr1 := rfl
@[simp] theorem enterHandler_readSlot : (enterHandler s).readSlot = s.readSlot := rfl
@[simp] theorem enterHandler_writeSlot : (enterHandler s).writeSlot = s.writeSlot := rfl
@[simp] theorem enterHandler_notifyTarget : (enterHandler s).notifyTarget = s.notifyTarget := rfl
@[simp] theorem enterHandler_ownAddress : (enterHandler s).ownAddress = s.ownAddress := rfl
@[simp] theorem enterHandler_nslot : (enterHandler s).nslot = s.nslot := rfl
@[simp] theorem enterHandler_phase : (enterHandler s).phase = s.phase := rfl
@[simp] theorem enterHandler_fault : (enterHandler s).fault = s.fault := rfl
@[simp] theorem enterHandler_busLog : (enterHandler s).busLog = s.busLog := rfl
@[simp] theorem enterHandler_hostLog : (enterHandler s).hostLog = s.hostLog := rfl
@[simp] theorem enterHandler_mem : (enterHandler s).mem = s.mem := rfl
@[simp] theorem enterHandler_port : (enterHandler s).port = s.port := rfl
@[simp] theorem enterHandler_awaiting : (enterHandler s).awaiting = s.awaiting := rfl
@[simp] theorem enterHandler_endless : (enterHandler s).endless = s.endless := rfl
@[simp] theorem enterHandler_turns : (enterHandler s).turns = s.turns := rfl
@[simp] theorem enterHandler_tick : (enterHandler s).tick = s.tick := rfl

/-! ## `stopThen` -/

@[simp] theorem stopThen_params (k : Continuation) : (stopThen k s).params = s.params := rfl
@[simp] theorem stopThen_status (k : Continuation) : (stopThen k s).status = s.status := rfl
@[simp] theorem stopThen_cmd (k : Continuation) : (stopThen k s).cmd = Command.stop.code := rfl
@[simp] theorem stopThen_data (k : Continuation) : (stopThen k s).data = s.data := rfl
@[simp] theorem stopThen_taddr (k : Continuation) : (stopThen k s).taddr = s.taddr := rfl
@[simp] theorem stopThen_div (k : Continuation) : (stopThen k s).div = s.div := rfl
@[simp] theorem stopThen_ctrl (k : Continuation) : (stopThen k s).ctrl = s.ctrl := rfl
@[simp] theorem stopThen_flags (k : Continuation) : (stopThen k s).flags = flagsWord false true := rfl
@[simp] theorem stopThen_role (k : Continuation) : (stopThen k s).role = s.role := rfl
@[simp] theorem stopThen_lifecycle (k : Continuation) : (stopThen k s).lifecycle = s.lifecycle := rfl
@[simp] theorem stopThen_address (k : Continuation) : (stopThen k s).address = s.address := rfl
@[simp] theorem stopThen_iov (k : Continuation) : (stopThen k s).iov = s.iov := rfl
@[simp] theorem stopThen_segmentIndex (k : Continuation) : (stopThen k s).segmentIndex = s.segmentIndex := rfl
@[simp] theorem stopThen_cursor (k : Continuation) : (stopThen k s).cursor = s.cursor := rfl
@[simp] theorem stopThen_curSpace (k : Continuation) : (stopThen k s).curSpace = s.curSpace := rfl
@[simp] theorem stopThen_limit (k : Continuation) : (stopThen k s).limit = s.limit := rfl
@[simp] theorem stopThen_transferredCount (k : Continuation) : (stopThen k s).transferredCount = s.transferredCount := rfl
@[simp] theorem stopThen_lastEvent (k : Continuation) : (stopThen k s).lastEvent = s.lastEvent := rfl
@[simp] theorem stopThen_hdr0 (k : Continuation) : (stopThen k s).hdr0 = s.hdr0 := rfl
@[simp] theorem stopThen_hdr1 (k : Continuation) : (stopThen k s).hdr1 = s.hdr1 := rfl
@[simp] theorem stopThen_readSlot (k : Continuation) : (stopThen k s).readSlot = s.readSlot := rfl
@[simp] theorem stopThen_writeSlot (k : Continuation) : (stopThen k s).writeSlot = s.writeSlot := rfl
@[simp] theorem stopThen_notifyTarget (k : Continuation) : (stopThen k s).notifyTarget = s.notifyTarget := rfl
@[simp] theorem stopThen_ownAddress (k : Continuation) : (stopThen k s).ownAddress = s.ownAddress := rfl
@[simp] theorem stopThen_nslot (k : Continuation) : (stopThen k s).nslot = s.nslot := rfl
@[simp] theorem stopThen_phase (k : Continuation) : (stopThen k s).phase = .waitStop k := rfl
@[simp] theorem stopThen_fault (k : Continuation) : (stopThen k s).fault = s.fault := rfl
@[simp] theorem stopThen_busLog (k : Continuation) : (stopThen k s).busLog = s.busLog ++ [(.stop, s.data)] := rfl
@[simp] theorem stopThen_hostLog (k : Continuation) : (stopThen k s).hostLog = s.hostLog := rfl
@[simp] theorem stopThen_mem (k : Continuation) : (stopThen k s).mem = s.mem := rfl
@[simp] theorem stopThen_port (k : Continuation) : (stopThen k s).port = s.port := rfl
@[simp] theorem stopThen_awaiting (k : Continuation) : (stopThen k s).awaiting = s.awaiting := rfl
@[simp] theorem stopThen_endless (k : Continuation) : (stopThen k s).endless = s.endless := rfl
@[simp] theorem stopThen_turns (k : Continuation) : (stopThen k s).turns = s.turns := rfl
@[simp] theorem stopThen_tick (k : Continuation) : (stopThen k s).tick = s.tick := rfl

/-! ## `hostReturn` -/

@[simp] theorem hostReturn_params (r : HostRecord) : (hostReturn r s).params = s.params := rfl
@[simp] theorem hostReturn_status (r : HostRecord) : (hostReturn r s).status = s.status := rfl
@[simp] theorem hostReturn_cmd (r : HostRecord) : (hostReturn r s).cmd = s.cmd := rfl
@[simp] theorem hostReturn_data (r : HostRecord) : (hostReturn r s).data = s.data := rfl
@[simp] theorem hostReturn_taddr (r : HostRecord) : (hostReturn r s).taddr = s.taddr := rfl
@[simp] theorem hostReturn_div (r : HostRecord) : (hostReturn r s).div = s.div := rfl
@[simp] theorem hostReturn_ctrl (r : HostRecord) : (hostReturn r s).ctrl = s.ctrl := rfl
@[simp] theorem hostReturn_flags (r : HostRecord) : (hostReturn r s).flags = s.flags := rfl
@[simp] theorem hostReturn_role (r : HostRecord) : (hostReturn r s).role = s.role := rfl
@[simp] theorem hostReturn_lifecycle (r : HostRecord) : (hostReturn r s).lifecycle = s.lifecycle := rfl
@[simp] theorem hostReturn_address (r : HostRecord) : (hostReturn r s).address = s.address := rfl
@[simp] theorem hostReturn_iov (r : HostRecord) : (hostReturn r s).iov = s.iov := rfl
@[simp] theorem hostReturn_segmentIndex (r : HostRecord) : (hostReturn r s).segmentIndex = s.segmentIndex := rfl
@[simp] theorem hostReturn_cursor (r : HostRecord) : (hostReturn r s).cursor = s.cursor := rfl
@[simp] theorem hostReturn_curSpace (r : HostRecord) : (hostReturn r s).curSpace = s.curSpace := rfl
@[simp] theorem hostReturn_limit (r : HostRecord) : (hostReturn r s).limit = s.limit := rfl
@[simp] theorem hostReturn_transferredCount (r : HostRecord) : (hostReturn r s).transferredCount = s.transferredCount := rfl
@[simp] theorem hostReturn_lastEvent (r : HostRecord) : (hostReturn r s).lastEvent = s.lastEvent := rfl
@[simp] theorem hostReturn_hdr0 (r : HostRecord) : (hostReturn r s).hdr0 = s.hdr0 := rfl
@[simp] theorem hostReturn_hdr1 (r : HostRecord) : (hostReturn r s).hdr1 = s.hdr1 := rfl
@[simp] theorem hostReturn_readSlot (r : HostRecord) : (hostReturn r s).readSlot = s.readSlot := rfl
@[simp] theorem hostReturn_writeSlot (r : HostRecord) : (hostReturn r s).writeSlot = s.writeSlot := rfl
@[simp] theorem hostReturn_notifyTarget (r : HostRecord) : (hostReturn r s).notifyTarget = s.notifyTarget := rfl
@[simp] theorem hostReturn_ownAddress (r : HostRecord) : (hostReturn r s).ownAddress = s.ownAddress := rfl
@[simp] theorem hostReturn_nslot (r : HostRecord) : (hostReturn r s).nslot = s.nslot := rfl
@[simp] theorem hostReturn_phase (r : HostRecord) : (hostReturn r s).phase = s.phase := rfl
@[simp] theorem hostReturn_fault (r : HostRecord) : (hostReturn r s).fault = s.fault := rfl
@[simp] theorem hostReturn_busLog (r : HostRecord) : (hostReturn r s).busLog = s.busLog := rfl
@[simp] theorem hostReturn_hostLog (r : HostRecord) : (hostReturn r s).hostLog = s.hostLog ++ [r] := rfl
@[simp] theorem hostReturn_mem (r : HostRecord) : (hostReturn r s).mem = s.mem := rfl
@[simp] theorem hostReturn_port (r : HostRecord) : (hostReturn r s).port = s.port := rfl
@[simp] theorem hostReturn_awaiting (r : HostRecord) : (hostReturn r s).awaiting = s.awaiting := rfl
@[simp] theorem hostReturn_endless (r : HostRecord) : (hostReturn r s).endless = s.endless := rfl
@[simp] theorem hostReturn_turns (r : HostRecord) : (hostReturn r s).turns = s.turns := rfl
@[simp] theorem hostReturn_tick (r : HostRecord) : (hostReturn r s).tick = s.tick := rfl

/-! ## `walkSegment` -/

@[simp] theorem walkSegment_params (e : Segment) : (walkSegment e s).params = s.params := rfl
@[simp] theorem walkSegment_status (e : Segment) : (walkSegment e s).status = s.status := rfl
@[simp] theorem walkSegment_cmd (e : Segment) : (walkSegment e s).cmd = s.cmd := rfl
@[simp] theorem walkSegment_data (e : Segment) : (walkSegment e s).data = s.data := rfl
@[simp] theorem walkSegment_taddr (e : Segment) : (walkSegment e s).taddr = s.taddr := rfl
@[simp] theorem walkSegment_div (e : Segment) : (walkSegment e s).div = s.div := rfl
@[simp] theorem walkSegment_ctrl (e : Segment) : (walkSegment e s).ctrl = s.ctrl := rfl
@[simp] theorem walkSegment_flags (e : Segment) : (walkSegment e s).flags = s.flags := rfl
@[simp] theorem walkSegment_role (e : Segment) : (walkSegment e s).role = s.role := rfl
@[simp] theorem walkSegment_lifecycle (e : Segment) : (walkSegment e s).lifecycle = s.lifecycle := rfl
@[simp] theorem walkSegment_address (e : Segment) : (walkSegment e s).address = s.address := rfl
@[simp] theorem walkSegment_iov (e : Segment) : (walkSegment e s).iov = s.iov := rfl
@[simp] theorem walkSegment_segmentIndex (e : Segment) : (walkSegment e s).segmentIndex = s.segmentIndex := rfl
@[simp] theorem walkSegment_cursor (e : Segment) : (walkSegment e s).cursor = e.base := rfl
@[simp] theorem walkSegment_curSpace (e : Segment) : (walkSegment e s).curSpace = e.space := rfl
@[simp] theorem walkSegment_limit (e : Segment) : (walkSegment e s).limit = e.base + e.len := rfl
@[simp] theorem walkSegment_transferredCount (e : Segment) : (walkSegment e s).transferredCount = s.transferredCount := rfl
@[simp] theorem walkSegment_lastEvent (e : Segment) : (walkSegment e s).lastEvent = s.lastEvent := rfl
@[simp] theorem walkSegment_hdr0 (e : Segment) : (walkSegment e s).hdr0 = s.hdr0 := rfl
@[simp] theorem walkSegment_hdr1 (e : Segment) : (walkSegment e s).hdr1 = s.hdr1 := rfl
@[simp] theorem walkSegment_readSlot (e : Segment) : (walkSegment e s).readSlot = s.readSlot := rfl
@[simp] theorem walkSegment_writeSlot (e : Segment) : (walkSegment e s).writeSlot = s.writeSlot := rfl
@[simp] theorem walkSegment_notifyTarget (e : Segment) : (walkSegment e s).notifyTarget = s.notifyTarget := rfl
@[simp] theorem walkSegment_ownAddress (e : Segment) : (walkSegment e s).ownAddress = s.ownAddress := rfl
@[simp] theorem walkSegment_nslot (e : Segment) : (walkSegment e s).nslot = s.nslot := rfl
@[simp] theorem walkSegment_phase (e : Segment) : (walkSegment e s).phase = s.phase := rfl
@[simp] theorem walkSegment_fault (e : Segment) : (walkSegment e s).fault = s.fault := rfl
@[simp] theorem walkSegment_busLog (e : Segment) : (walkSegment e s).busLog = s.busLog := rfl
@[simp] theorem walkSegment_hostLog (e : Segment) : (walkSegment e s).hostLog = s.hostLog := rfl
@[simp] theorem walkSegment_mem (e : Segment) : (walkSegment e s).mem = s.mem := rfl
@[simp] theorem walkSegment_port (e : Segment) : (walkSegment e s).port = s.port := rfl
@[simp] theorem walkSegment_awaiting (e : Segment) : (walkSegment e s).awaiting = s.awaiting := rfl
@[simp] theorem walkSegment_endless (e : Segment) : (walkSegment e s).endless = s.endless := rfl
@[simp] theorem walkSegment_turns (e : Segment) : (walkSegment e s).turns = s.turns := rfl
@[simp] theorem walkSegment_tick (e : Segment) : (walkSegment e s).tick = s.tick := rfl

/-! ## `selectTarget` -/

@[simp] theorem selectTarget_params (r : Role) (b : Slot) : (selectTarget r b s).params = s.params := rfl
@[simp] theorem selectTarget_status (r : Role) (b : Slot) : (selectTarget r b s).status = s.status := rfl
@[simp] theorem selectTarget_cmd (r : Role) (b : Slot) : (selectTarget r b s).cmd = s.cmd := rfl
@[simp] theorem selectTarget_data (r : Role) (b : Slot) : (selectTarget r b s).data = s.data := rfl
@[simp] theorem selectTarget_taddr (r : Role) (b : Slot) : (selectTarget r b s).taddr = s.taddr := rfl
@[simp] theorem selectTarget_div (r : Role) (b : Slot) : (selectTarget r b s).div = s.div := rfl
@[simp] theorem selectTarget_ctrl (r : Role) (b : Slot) : (selectTarget r b s).ctrl = s.ctrl := rfl
@[simp] theorem selectTarget_flags (r : Role) (b : Slot) : (selectTarget r b s).flags = s.flags := rfl
@[simp] theorem selectTarget_role (r : Role) (b : Slot) : (selectTarget r b s).role = r := rfl
@[simp] theorem selectTarget_lifecycle (r : Role) (b : Slot) : (selectTarget r b s).lifecycle = .active := rfl
@[simp] theorem selectTarget_address (r : Role) (b : Slot) : (selectTarget r b s).address = s.address := rfl
@[simp] theorem selectTarget_iov (r : Role) (b : Slot) : (selectTarget r b s).iov = s.iov := rfl
@[simp] theorem selectTarget_segmentIndex (r : Role) (b : Slot) : (selectTarget r b s).segmentIndex = s.segmentIndex := rfl
@[simp] theorem selectTarget_cursor (r : Role) (b : Slot) : (selectTarget r b s).cursor = b.base := rfl
@[simp] theorem selectTarget_curSpace (r : Role) (b : Slot) : (selectTarget r b s).curSpace = .mem := rfl
@[simp] theorem selectTarget_limit (r : Role) (b : Slot) : (selectTarget r b s).limit = b.base + b.len := rfl
@[simp] theorem selectTarget_transferredCount (r : Role) (b : Slot) : (selectTarget r b s).transferredCount = 0 := rfl
@[simp] theorem selectTarget_lastEvent (r : Role) (b : Slot) : (selectTarget r b s).lastEvent = s.lastEvent := rfl
@[simp] theorem selectTarget_hdr0 (r : Role) (b : Slot) : (selectTarget r b s).hdr0 = s.hdr0 := rfl
@[simp] theorem selectTarget_hdr1 (r : Role) (b : Slot) : (selectTarget r b s).hdr1 = s.hdr1 := rfl
@[simp] theorem selectTarget_readSlot (r : Role) (b : Slot) : (selectTarget r b s).readSlot = s.readSlot := rfl
@[simp] theorem selectTarget_writeSlot (r : Role) (b : Slot) : (selectTarget r b s).writeSlot = s.writeSlot := rfl
@[simp] theorem selectTarget_notifyTarget (r : Role) (b : Slot) : (selectTarget r b s).notifyTarget = s.notifyTarget := rfl
@[simp] theorem selectTarget_ownAddress (r : Role) (b : Slot) : (selectTarget r b s).ownAddress = s.ownAddress := rfl
@[simp] theorem selectTarget_nslot (r : Role) (b : Slot) : (selectTarget r b s).nslot = s.nslot := rfl
@[simp] theorem selectTarget_phase (r : Role) (b : Slot) : (selectTarget r b s).phase = s.phase := rfl
@[simp] theorem selectTarget_fault (r : Role) (b : Slot) : (selectTarget r b s).fault = s.fault := rfl
@[simp] theorem selectTarget_busLog (r : Role) (b : Slot) : (selectTarget r b s).busLog = s.busLog := rfl
@[simp] theorem selectTarget_hostLog (r : Role) (b : Slot) : (selectTarget r b s).hostLog = s.hostLog := rfl
@[simp] theorem selectTarget_mem (r : Role) (b : Slot) : (selectTarget r b s).mem = s.mem := rfl
@[simp] theorem selectTarget_port (r : Role) (b : Slot) : (selectTarget r b s).port = s.port := rfl
@[simp] theorem selectTarget_awaiting (r : Role) (b : Slot) : (selectTarget r b s).awaiting = s.awaiting := rfl
@[simp] theorem selectTarget_endless (r : Role) (b : Slot) : (selectTarget r b s).endless = s.endless := rfl
@[simp] theorem selectTarget_turns (r : Role) (b : Slot) : (selectTarget r b s).turns = s.turns := rfl
@[simp] theorem selectTarget_tick (r : Role) (b : Slot) : (selectTarget r b s).tick = s.tick := rfl

/-! ## `loadByte` -/

@[simp] theorem loadByte_params : (loadByte s).params = s.params := rfl
@[simp] theorem loadByte_status : (loadByte s).status = s.status := rfl
@[simp] theorem loadByte_cmd : (loadByte s).cmd = s.cmd := rfl
@[simp] theorem loadByte_data : (loadByte s).data = segRead s.curSpace s.cursor s := rfl
@[simp] theorem loadByte_taddr : (loadByte s).taddr = s.taddr := rfl
@[simp] theorem loadByte_div : (loadByte s).div = s.div := rfl
@[simp] theorem loadByte_ctrl : (loadByte s).ctrl = s.ctrl := rfl
@[simp] theorem loadByte_flags : (loadByte s).flags = s.flags := rfl
@[simp] theorem loadByte_role : (loadByte s).role = s.role := rfl
@[simp] theorem loadByte_lifecycle : (loadByte s).lifecycle = s.lifecycle := rfl
@[simp] theorem loadByte_address : (loadByte s).address = s.address := rfl
@[simp] theorem loadByte_iov : (loadByte s).iov = s.iov := rfl
@[simp] theorem loadByte_segmentIndex : (loadByte s).segmentIndex = s.segmentIndex := rfl
@[simp] theorem loadByte_cursor : (loadByte s).cursor = s.cursor + 1 := rfl
@[simp] theorem loadByte_curSpace : (loadByte s).curSpace = s.curSpace := rfl
@[simp] theorem loadByte_limit : (loadByte s).limit = s.limit := rfl
@[simp] theorem loadByte_transferredCount : (loadByte s).transferredCount = s.transferredCount := rfl
@[simp] theorem loadByte_lastEvent : (loadByte s).lastEvent = s.lastEvent := rfl
@[simp] theorem loadByte_hdr0 : (loadByte s).hdr0 = s.hdr0 := rfl
@[simp] theorem loadByte_hdr1 : (loadByte s).hdr1 = s.hdr1 := rfl
@[simp] theorem loadByte_readSlot : (loadByte s).readSlot = s.readSlot := rfl
@[simp] theorem loadByte_writeSlot : (loadByte s).writeSlot = s.writeSlot := rfl
@[simp] theorem loadByte_notifyTarget : (loadByte s).notifyTarget = s.notifyTarget := rfl
@[simp] theorem loadByte_ownAddress : (loadByte s).ownAddress = s.ownAddress := rfl
@[simp] theorem loadByte_nslot : (loadByte s).nslot = s.nslot := rfl
@[simp] theorem loadByte_phase : (loadByte s).phase = s.phase := rfl
@[simp] theorem loadByte_fault : (loadByte s).fault = s.fault := rfl
@[simp] theorem loadByte_busLog : (loadByte s).busLog = s.busLog := rfl
@[simp] theorem loadByte_hostLog : (loadByte s).hostLog = s.hostLog := rfl
@[simp] theorem loadByte_mem : (loadByte s).mem = s.mem := rfl
@[simp] theorem loadByte_port : (loadByte s).port = s.port := rfl
@[simp] theorem loadByte_awaiting : (loadByte s).awaiting = s.awaiting := rfl
@[simp] theorem loadByte_endless : (loadByte s).endless = s.endless := rfl
@[simp] theorem loadByte_turns : (loadByte s).turns = s.turns := rfl
@[simp] theorem loadByte_tick : (loadByte s).tick = s.tick := rfl

/-! ## `raiseEvent` -/

@[simp] theorem raiseEvent_params (st d : Byte) : (raiseEvent st d s).params = s.params := rfl
@[simp] theorem raiseEvent_status (st d : Byte) : (raiseEvent st d s).status = statusCode st ++ (0 : BitVec 3) := rfl
@[simp] theorem raiseEvent_cmd (st d : Byte) : (raiseEvent st d s).cmd = s.cmd := rfl
@[simp] theorem raiseEvent_data (st d : Byte) : (raiseEvent st d s).data = d := rfl
@[simp] theorem raiseEvent_taddr (st d : Byte) : (raiseEvent st d s).taddr = s.taddr := rfl
@[simp] theorem raiseEvent_div (st d : Byte) : (raiseEvent st d s).div = s.div := rfl
@[simp] theorem raiseEvent_ctrl (st d : Byte) : (raiseEvent st d s).ctrl = s.ctrl := rfl
@[simp] theorem raiseEvent_flags (st d : Byte) : (raiseEvent st d s).flags = flagsWord true (flagStopp s.flags) := rfl
@[simp] theorem raiseEvent_role (st d : Byte) : (raiseEvent st d s).role = s.role := rfl
@[simp] theorem raiseEvent_lifecycle (st d : Byte) : (raiseEvent st d s).lifecycle = s.lifecycle := rfl
@[simp] theorem raiseEvent_address (st d : Byte) : (raiseEvent st d s).address = s.address := rfl
@[simp] theorem raiseEvent_iov (st d : Byte) : (raiseEvent st d s).iov = s.iov := rfl
@[simp] theorem raiseEvent_segmentIndex (st d : Byte) : (raiseEvent st d s).segmentIndex = s.segmentIndex := rfl
@[simp] theorem raiseEvent_cursor (st d : Byte) : (raiseEvent st d s).cursor = s.cursor := rfl
@[simp] theorem raiseEvent_curSpace (st d : Byte) : (raiseEvent st d s).curSpace = s.curSpace := rfl
@[simp] theorem raiseEvent_limit (st d : Byte) : (raiseEvent st d s).limit = s.limit := rfl
@[simp] theorem raiseEvent_transferredCount (st d : Byte) : (raiseEvent st d s).transferredCount = s.transferredCount := rfl
@[simp] theorem raiseEvent_lastEvent (st d : Byte) : (raiseEvent st d s).lastEvent = s.lastEvent := rfl
@[simp] theorem raiseEvent_hdr0 (st d : Byte) : (raiseEvent st d s).hdr0 = s.hdr0 := rfl
@[simp] theorem raiseEvent_hdr1 (st d : Byte) : (raiseEvent st d s).hdr1 = s.hdr1 := rfl
@[simp] theorem raiseEvent_readSlot (st d : Byte) : (raiseEvent st d s).readSlot = s.readSlot := rfl
@[simp] theorem raiseEvent_writeSlot (st d : Byte) : (raiseEvent st d s).writeSlot = s.writeSlot := rfl
@[simp] theorem raiseEvent_notifyTarget (st d : Byte) : (raiseEvent st d s).notifyTarget = s.notifyTarget := rfl
@[simp] theorem raiseEvent_ownAddress (st d : Byte) : (raiseEvent st d s).ownAddress = s.ownAddress := rfl
@[simp] theorem raiseEvent_nslot (st d : Byte) : (raiseEvent st d s).nslot = s.nslot := rfl
@[simp] theorem raiseEvent_phase (st d : Byte) : (raiseEvent st d s).phase = s.phase := rfl
@[simp] theorem raiseEvent_fault (st d : Byte) : (raiseEvent st d s).fault = s.fault := rfl
@[simp] theorem raiseEvent_busLog (st d : Byte) : (raiseEvent st d s).busLog = s.busLog := rfl
@[simp] theorem raiseEvent_hostLog (st d : Byte) : (raiseEvent st d s).hostLog = s.hostLog := rfl
@[simp] theorem raiseEvent_mem (st d : Byte) : (raiseEvent st d s).mem = s.mem := rfl
@[simp] theorem raiseEvent_port (st d : Byte) : (raiseEvent st d s).port = s.port := rfl
@[simp] theorem raiseEvent_awaiting (st d : Byte) : (raiseEvent st d s).awaiting = s.awaiting := rfl
@[simp] theorem raiseEvent_endless (st d : Byte) : (raiseEvent st d s).endless = s.endless := rfl
@[simp] theorem raiseEvent_turns (st d : Byte) : (raiseEvent st d s).turns = s.turns := rfl
@[simp] theorem raiseEvent_tick (st d : Byte) : (raiseEvent st d s).tick = s.tick := rfl

/-! ## `clearStop` -/

@[simp] theorem clearStop_params : (clearStop s).params = s.params := rfl
@[simp] theorem clearStop_status : (clearStop s).status = s.status := rfl
@[simp] theorem clearStop_cmd : (clearStop s).cmd = s.cmd := rfl
@[simp] theorem clearStop_data : (clearStop s).data = s.data := rfl
@[simp] theorem clearStop_taddr : (clearStop s).taddr = s.taddr := rfl
@[simp] theorem clearStop_div : (clearStop s).div = s.div := rfl
@[simp] theorem clearStop_ctrl : (clearStop s).ctrl = s.ctrl := rfl
@[simp] theorem clearStop_flags : (clearStop s).flags = flagsWord (flagIntf s.flags) false := rfl
@[simp] theorem clearStop_role : (clearStop s).role = s.role := rfl
@[simp] theorem clearStop_lifecycle : (clearStop s).lifecycle = s.lifecycle := rfl
@[simp] theorem clearStop_address : (clearStop s).address = s.address := rfl
@[simp] theorem clearStop_iov : (clearStop s).iov = s.iov := rfl
@[simp] theorem clearStop_segmentIndex : (clearStop s).segmentIndex = s.segmentIndex := rfl
@[simp] theorem clearStop_cursor : (clearStop s).cursor = s.cursor := rfl
@[simp] theorem clearStop_curSpace : (clearStop s).curSpace = s.curSpace := rfl
@[simp] theorem clearStop_limit : (clearStop s).limit = s.limit := rfl
@[simp] theorem clearStop_transferredCount : (clearStop s).transferredCount = s.transferredCount := rfl
@[simp] theorem clearStop_lastEvent : (clearStop s).lastEvent = s.lastEvent := rfl
@[simp] theorem clearStop_hdr0 : (clearStop s).hdr0 = s.hdr0 := rfl
@[simp] theorem clearStop_hdr1 : (clearStop s).hdr1 = s.hdr1 := rfl
@[simp] theorem clearStop_readSlot : (clearStop s).readSlot = s.readSlot := rfl
@[simp] theorem clearStop_writeSlot : (clearStop s).writeSlot = s.writeSlot := rfl
@[simp] theorem clearStop_notifyTarget : (clearStop s).notifyTarget = s.notifyTarget := rfl
@[simp] theorem clearStop_ownAddress : (clearStop s).ownAddress = s.ownAddress := rfl
@[simp] theorem clearStop_nslot : (clearStop s).nslot = s.nslot := rfl
@[simp] theorem clearStop_phase : (clearStop s).phase = s.phase := rfl
@[simp] theorem clearStop_fault : (clearStop s).fault = s.fault := rfl
@[simp] theorem clearStop_busLog : (clearStop s).busLog = s.busLog := rfl
@[simp] theorem clearStop_hostLog : (clearStop s).hostLog = s.hostLog := rfl
@[simp] theorem clearStop_mem : (clearStop s).mem = s.mem := rfl
@[simp] theorem clearStop_port : (clearStop s).port = s.port := rfl
@[simp] theorem clearStop_awaiting : (clearStop s).awaiting = s.awaiting := rfl
@[simp] theorem clearStop_endless : (clearStop s).endless = s.endless := rfl
@[simp] theorem clearStop_turns : (clearStop s).turns = s.turns := rfl
@[simp] theorem clearStop_tick : (clearStop s).tick = s.tick := rfl

/-! ## `receiveProgram` -/

@[simp] theorem receiveProgram_params (bs : List Byte) : (receiveProgram bs s).params = s.params := rfl
@[simp] theorem receiveProgram_status (bs : List Byte) : (receiveProgram bs s).status = s.status := rfl
@[simp] theorem receiveProgram_cmd (bs : List Byte) : (receiveProgram bs s).cmd = s.cmd := rfl
@[simp] theorem receiveProgram_data (bs : List Byte) : (receiveProgram bs s).data = s.data := rfl
@[simp] theorem receiveProgram_taddr (bs : List Byte) : (receiveProgram bs s).taddr = s.taddr := rfl
@[simp] theorem receiveProgram_div (bs : List Byte) : (receiveProgram bs s).div = s.div := rfl
@[simp] theorem receiveProgram_ctrl (bs : List Byte) : (receiveProgram bs s).ctrl = s.ctrl := rfl
@[simp] theorem receiveProgram_flags (bs : List Byte) : (receiveProgram bs s).flags = s.flags := rfl
@[simp] theorem receiveProgram_role (bs : List Byte) : (receiveProgram bs s).role = s.role := rfl
@[simp] theorem receiveProgram_lifecycle (bs : List Byte) : (receiveProgram bs s).lifecycle = s.lifecycle := rfl
@[simp] theorem receiveProgram_address (bs : List Byte) : (receiveProgram bs s).address = s.address := rfl
@[simp] theorem receiveProgram_iov (bs : List Byte) : (receiveProgram bs s).iov = s.iov := rfl
@[simp] theorem receiveProgram_segmentIndex (bs : List Byte) : (receiveProgram bs s).segmentIndex = s.segmentIndex := rfl
@[simp] theorem receiveProgram_cursor (bs : List Byte) : (receiveProgram bs s).cursor = s.cursor := rfl
@[simp] theorem receiveProgram_curSpace (bs : List Byte) : (receiveProgram bs s).curSpace = s.curSpace := rfl
@[simp] theorem receiveProgram_limit (bs : List Byte) : (receiveProgram bs s).limit = s.limit := rfl
@[simp] theorem receiveProgram_transferredCount (bs : List Byte) : (receiveProgram bs s).transferredCount = s.transferredCount := rfl
@[simp] theorem receiveProgram_lastEvent (bs : List Byte) : (receiveProgram bs s).lastEvent = s.lastEvent := rfl
@[simp] theorem receiveProgram_hdr0 (bs : List Byte) : (receiveProgram bs s).hdr0 = s.hdr0 := rfl
@[simp] theorem receiveProgram_hdr1 (bs : List Byte) : (receiveProgram bs s).hdr1 = s.hdr1 := rfl
@[simp] theorem receiveProgram_readSlot (bs : List Byte) : (receiveProgram bs s).readSlot = s.readSlot := rfl
@[simp] theorem receiveProgram_writeSlot (bs : List Byte) : (receiveProgram bs s).writeSlot = s.writeSlot := rfl
@[simp] theorem receiveProgram_notifyTarget (bs : List Byte) : (receiveProgram bs s).notifyTarget = s.notifyTarget := rfl
@[simp] theorem receiveProgram_ownAddress (bs : List Byte) : (receiveProgram bs s).ownAddress = s.ownAddress := rfl
@[simp] theorem receiveProgram_nslot (bs : List Byte) : (receiveProgram bs s).nslot = s.nslot := rfl
@[simp] theorem receiveProgram_phase (bs : List Byte) : (receiveProgram bs s).phase = s.phase := rfl
@[simp] theorem receiveProgram_fault (bs : List Byte) : (receiveProgram bs s).fault = s.fault := rfl
@[simp] theorem receiveProgram_busLog (bs : List Byte) : (receiveProgram bs s).busLog = s.busLog := rfl
@[simp] theorem receiveProgram_hostLog (bs : List Byte) : (receiveProgram bs s).hostLog = s.hostLog := rfl
@[simp] theorem receiveProgram_mem (bs : List Byte) : (receiveProgram bs s).mem = s.mem := rfl
@[simp] theorem receiveProgram_port (bs : List Byte) : (receiveProgram bs s).port = bs := rfl
@[simp] theorem receiveProgram_awaiting (bs : List Byte) : (receiveProgram bs s).awaiting = s.awaiting := rfl
@[simp] theorem receiveProgram_endless (bs : List Byte) : (receiveProgram bs s).endless = s.endless := rfl
@[simp] theorem receiveProgram_turns (bs : List Byte) : (receiveProgram bs s).turns = s.turns := rfl
@[simp] theorem receiveProgram_tick (bs : List Byte) : (receiveProgram bs s).tick = s.tick := rfl

/-! ## `hostStoreByte` -/

@[simp] theorem hostStoreByte_params (a : Nat) (v : Byte) : (hostStoreByte a v s).params = s.params := rfl
@[simp] theorem hostStoreByte_status (a : Nat) (v : Byte) : (hostStoreByte a v s).status = s.status := rfl
@[simp] theorem hostStoreByte_cmd (a : Nat) (v : Byte) : (hostStoreByte a v s).cmd = s.cmd := rfl
@[simp] theorem hostStoreByte_data (a : Nat) (v : Byte) : (hostStoreByte a v s).data = s.data := rfl
@[simp] theorem hostStoreByte_taddr (a : Nat) (v : Byte) : (hostStoreByte a v s).taddr = s.taddr := rfl
@[simp] theorem hostStoreByte_div (a : Nat) (v : Byte) : (hostStoreByte a v s).div = s.div := rfl
@[simp] theorem hostStoreByte_ctrl (a : Nat) (v : Byte) : (hostStoreByte a v s).ctrl = s.ctrl := rfl
@[simp] theorem hostStoreByte_flags (a : Nat) (v : Byte) : (hostStoreByte a v s).flags = s.flags := rfl
@[simp] theorem hostStoreByte_role (a : Nat) (v : Byte) : (hostStoreByte a v s).role = s.role := rfl
@[simp] theorem hostStoreByte_lifecycle (a : Nat) (v : Byte) : (hostStoreByte a v s).lifecycle = s.lifecycle := rfl
@[simp] theorem hostStoreByte_address (a : Nat) (v : Byte) : (hostStoreByte a v s).address = s.address := rfl
@[simp] theorem hostStoreByte_iov (a : Nat) (v : Byte) : (hostStoreByte a v s).iov = s.iov := rfl
@[simp] theorem hostStoreByte_segmentIndex (a : Nat) (v : Byte) : (hostStoreByte a v s).segmentIndex = s.segmentIndex := rfl
@[simp] theorem hostStoreByte_cursor (a : Nat) (v : Byte) : (hostStoreByte a v s).cursor = s.cursor := rfl
@[simp] theorem hostStoreByte_curSpace (a : Nat) (v : Byte) : (hostStoreByte a v s).curSpace = s.curSpace := rfl
@[simp] theorem hostStoreByte_limit (a : Nat) (v : Byte) : (hostStoreByte a v s).limit = s.limit := rfl
@[simp] theorem hostStoreByte_transferredCount (a : Nat) (v : Byte) : (hostStoreByte a v s).transferredCount = s.transferredCount := rfl
@[simp] theorem hostStoreByte_lastEvent (a : Nat) (v : Byte) : (hostStoreByte a v s).lastEvent = s.lastEvent := rfl
@[simp] theorem hostStoreByte_hdr0 (a : Nat) (v : Byte) : (hostStoreByte a v s).hdr0 = s.hdr0 := rfl
@[simp] theorem hostStoreByte_hdr1 (a : Nat) (v : Byte) : (hostStoreByte a v s).hdr1 = s.hdr1 := rfl
@[simp] theorem hostStoreByte_readSlot (a : Nat) (v : Byte) : (hostStoreByte a v s).readSlot = s.readSlot := rfl
@[simp] theorem hostStoreByte_writeSlot (a : Nat) (v : Byte) : (hostStoreByte a v s).writeSlot = s.writeSlot := rfl
@[simp] theorem hostStoreByte_notifyTarget (a : Nat) (v : Byte) : (hostStoreByte a v s).notifyTarget = s.notifyTarget := rfl
@[simp] theorem hostStoreByte_ownAddress (a : Nat) (v : Byte) : (hostStoreByte a v s).ownAddress = s.ownAddress := rfl
@[simp] theorem hostStoreByte_nslot (a : Nat) (v : Byte) : (hostStoreByte a v s).nslot = s.nslot := rfl
@[simp] theorem hostStoreByte_phase (a : Nat) (v : Byte) : (hostStoreByte a v s).phase = s.phase := rfl
@[simp] theorem hostStoreByte_fault (a : Nat) (v : Byte) : (hostStoreByte a v s).fault = s.fault := rfl
@[simp] theorem hostStoreByte_busLog (a : Nat) (v : Byte) : (hostStoreByte a v s).busLog = s.busLog := rfl
@[simp] theorem hostStoreByte_hostLog (a : Nat) (v : Byte) : (hostStoreByte a v s).hostLog = s.hostLog := rfl
@[simp] theorem hostStoreByte_mem (a : Nat) (v : Byte) : (hostStoreByte a v s).mem = memWrite s.mem a v := rfl
@[simp] theorem hostStoreByte_port (a : Nat) (v : Byte) : (hostStoreByte a v s).port = s.port := rfl
@[simp] theorem hostStoreByte_awaiting (a : Nat) (v : Byte) : (hostStoreByte a v s).awaiting = s.awaiting := rfl
@[simp] theorem hostStoreByte_endless (a : Nat) (v : Byte) : (hostStoreByte a v s).endless = s.endless := rfl
@[simp] theorem hostStoreByte_turns (a : Nat) (v : Byte) : (hostStoreByte a v s).turns = s.turns := rfl
@[simp] theorem hostStoreByte_tick (a : Nat) (v : Byte) : (hostStoreByte a v s).tick = s.tick := rfl

end Sys2Proof.Machine
end

