-- ==== Sys2Proof/Laws/Ops.lean ====
section
/-!
SUPPORT. One lemma per shared operation that says everything it can do: the provers cite these instead
of unfolding the operation.
-/

namespace Sys2Proof.Machine

/-! ## The cursor's access -/

/-- `atCursor` goes on exactly when the cursor's address exists. -/
theorem atCursor_next_iff (s t u : State) :
    atCursor s t = .next u ↔ spaceHas s.params s.curSpace s.cursor = true ∧ t = u := by
  unfold atCursor
  split <;> simp_all

/-- A write through the cursor touches data memory, or the header store where the parameters let a
receive event write it, and nothing else. -/
theorem segWrite_cases (sp : Space) (a : Nat) (v : Byte) (s : State) :
    (sp = .mem ∧ segWrite sp a v s = { s with mem := memWrite s.mem a v }) ∨
    (sp = .hdr ∧ s.params.receiveWritesHdr = true ∧ a = 0 ∧
      segWrite sp a v s = { s with hdr0 := v }) ∨
    (sp = .hdr ∧ s.params.receiveWritesHdr = true ∧ a ≠ 0 ∧
      segWrite sp a v s = { s with hdr1 := v }) ∨
    (sp = .hdr ∧ s.params.receiveWritesHdr = false ∧ segWrite sp a v s = s) := by
  cases sp with
  | mem => exact .inl ⟨rfl, rfl⟩
  | hdr =>
    cases hp : s.params.receiveWritesHdr with
    | false => exact .inr (.inr (.inr ⟨rfl, rfl, by simp [segWrite, hp]⟩))
    | true =>
      by_cases h : a = 0
      · exact .inr (.inl ⟨rfl, rfl, h, by simp [segWrite, hp, h]⟩)
      · exact .inr (.inr (.inl ⟨rfl, rfl, h, by simp [segWrite, hp, h]⟩))

/-- Where a receive event leaves the header store alone, a write through the cursor does
(spec/10_state.md R34, spec/60_exceptions.md R153; log 24). -/
theorem segWrite_hdr_unwritten (sp : Space) (a : Nat) (v : Byte) (s : State)
    (h : s.params.receiveWritesHdr = false) :
    (segWrite sp a v s).hdr0 = s.hdr0 ∧ (segWrite sp a v s).hdr1 = s.hdr1 := by
  cases sp <;> simp [segWrite, h]

variable (s : State)

/-! ## `segWrite` and `storeByte`, field by field -/

@[simp] theorem segWrite_params (sp : Space) (a : Nat) (v : Byte) : (segWrite sp a v s).params = s.params := by
  unfold segWrite; (repeat' split) <;> rfl
@[simp] theorem segWrite_status (sp : Space) (a : Nat) (v : Byte) : (segWrite sp a v s).status = s.status := by
  unfold segWrite; (repeat' split) <;> rfl
@[simp] theorem segWrite_cmd (sp : Space) (a : Nat) (v : Byte) : (segWrite sp a v s).cmd = s.cmd := by
  unfold segWrite; (repeat' split) <;> rfl
@[simp] theorem segWrite_data (sp : Space) (a : Nat) (v : Byte) : (segWrite sp a v s).data = s.data := by
  unfold segWrite; (repeat' split) <;> rfl
@[simp] theorem segWrite_taddr (sp : Space) (a : Nat) (v : Byte) : (segWrite sp a v s).taddr = s.taddr := by
  unfold segWrite; (repeat' split) <;> rfl
@[simp] theorem segWrite_div (sp : Space) (a : Nat) (v : Byte) : (segWrite sp a v s).div = s.div := by
  unfold segWrite; (repeat' split) <;> rfl
@[simp] theorem segWrite_ctrl (sp : Space) (a : Nat) (v : Byte) : (segWrite sp a v s).ctrl = s.ctrl := by
  unfold segWrite; (repeat' split) <;> rfl
@[simp] theorem segWrite_flags (sp : Space) (a : Nat) (v : Byte) : (segWrite sp a v s).flags = s.flags := by
  unfold segWrite; (repeat' split) <;> rfl
@[simp] theorem segWrite_role (sp : Space) (a : Nat) (v : Byte) : (segWrite sp a v s).role = s.role := by
  unfold segWrite; (repeat' split) <;> rfl
@[simp] theorem segWrite_lifecycle (sp : Space) (a : Nat) (v : Byte) : (segWrite sp a v s).lifecycle = s.lifecycle := by
  unfold segWrite; (repeat' split) <;> rfl
@[simp] theorem segWrite_address (sp : Space) (a : Nat) (v : Byte) : (segWrite sp a v s).address = s.address := by
  unfold segWrite; (repeat' split) <;> rfl
@[simp] theorem segWrite_iov (sp : Space) (a : Nat) (v : Byte) : (segWrite sp a v s).iov = s.iov := by
  unfold segWrite; (repeat' split) <;> rfl
@[simp] theorem segWrite_segmentIndex (sp : Space) (a : Nat) (v : Byte) : (segWrite sp a v s).segmentIndex = s.segmentIndex := by
  unfold segWrite; (repeat' split) <;> rfl
@[simp] theorem segWrite_cursor (sp : Space) (a : Nat) (v : Byte) : (segWrite sp a v s).cursor = s.cursor := by
  unfold segWrite; (repeat' split) <;> rfl
@[simp] theorem segWrite_curSpace (sp : Space) (a : Nat) (v : Byte) : (segWrite sp a v s).curSpace = s.curSpace := by
  unfold segWrite; (repeat' split) <;> rfl
@[simp] theorem segWrite_limit (sp : Space) (a : Nat) (v : Byte) : (segWrite sp a v s).limit = s.limit := by
  unfold segWrite; (repeat' split) <;> rfl
@[simp] theorem segWrite_transferredCount (sp : Space) (a : Nat) (v : Byte) : (segWrite sp a v s).transferredCount = s.transferredCount := by
  unfold segWrite; (repeat' split) <;> rfl
@[simp] theorem segWrite_lastEvent (sp : Space) (a : Nat) (v : Byte) : (segWrite sp a v s).lastEvent = s.lastEvent := by
  unfold segWrite; (repeat' split) <;> rfl
@[simp] theorem segWrite_readSlot (sp : Space) (a : Nat) (v : Byte) : (segWrite sp a v s).readSlot = s.readSlot := by
  unfold segWrite; (repeat' split) <;> rfl
@[simp] theorem segWrite_writeSlot (sp : Space) (a : Nat) (v : Byte) : (segWrite sp a v s).writeSlot = s.writeSlot := by
  unfold segWrite; (repeat' split) <;> rfl
@[simp] theorem segWrite_notifyTarget (sp : Space) (a : Nat) (v : Byte) : (segWrite sp a v s).notifyTarget = s.notifyTarget := by
  unfold segWrite; (repeat' split) <;> rfl
@[simp] theorem segWrite_ownAddress (sp : Space) (a : Nat) (v : Byte) : (segWrite sp a v s).ownAddress = s.ownAddress := by
  unfold segWrite; (repeat' split) <;> rfl
@[simp] theorem segWrite_nslot (sp : Space) (a : Nat) (v : Byte) : (segWrite sp a v s).nslot = s.nslot := by
  unfold segWrite; (repeat' split) <;> rfl
@[simp] theorem segWrite_phase (sp : Space) (a : Nat) (v : Byte) : (segWrite sp a v s).phase = s.phase := by
  unfold segWrite; (repeat' split) <;> rfl
@[simp] theorem segWrite_fault (sp : Space) (a : Nat) (v : Byte) : (segWrite sp a v s).fault = s.fault := by
  unfold segWrite; (repeat' split) <;> rfl
@[simp] theorem segWrite_busLog (sp : Space) (a : Nat) (v : Byte) : (segWrite sp a v s).busLog = s.busLog := by
  unfold segWrite; (repeat' split) <;> rfl
@[simp] theorem segWrite_hostLog (sp : Space) (a : Nat) (v : Byte) : (segWrite sp a v s).hostLog = s.hostLog := by
  unfold segWrite; (repeat' split) <;> rfl
@[simp] theorem segWrite_port (sp : Space) (a : Nat) (v : Byte) : (segWrite sp a v s).port = s.port := by
  unfold segWrite; (repeat' split) <;> rfl
@[simp] theorem segWrite_awaiting (sp : Space) (a : Nat) (v : Byte) : (segWrite sp a v s).awaiting = s.awaiting := by
  unfold segWrite; (repeat' split) <;> rfl
@[simp] theorem segWrite_endless (sp : Space) (a : Nat) (v : Byte) : (segWrite sp a v s).endless = s.endless := by
  unfold segWrite; (repeat' split) <;> rfl
@[simp] theorem segWrite_turns (sp : Space) (a : Nat) (v : Byte) : (segWrite sp a v s).turns = s.turns := by
  unfold segWrite; (repeat' split) <;> rfl
@[simp] theorem segWrite_tick (sp : Space) (a : Nat) (v : Byte) : (segWrite sp a v s).tick = s.tick := by
  unfold segWrite; (repeat' split) <;> rfl

@[simp] theorem storeByte_params : (storeByte s).params = s.params := by simp [storeByte]
@[simp] theorem storeByte_status : (storeByte s).status = s.status := by simp [storeByte]
@[simp] theorem storeByte_cmd : (storeByte s).cmd = s.cmd := by simp [storeByte]
@[simp] theorem storeByte_data : (storeByte s).data = s.data := by simp [storeByte]
@[simp] theorem storeByte_taddr : (storeByte s).taddr = s.taddr := by simp [storeByte]
@[simp] theorem storeByte_div : (storeByte s).div = s.div := by simp [storeByte]
@[simp] theorem storeByte_ctrl : (storeByte s).ctrl = s.ctrl := by simp [storeByte]
@[simp] theorem storeByte_flags : (storeByte s).flags = s.flags := by simp [storeByte]
@[simp] theorem storeByte_role : (storeByte s).role = s.role := by simp [storeByte]
@[simp] theorem storeByte_lifecycle : (storeByte s).lifecycle = s.lifecycle := by simp [storeByte]
@[simp] theorem storeByte_address : (storeByte s).address = s.address := by simp [storeByte]
@[simp] theorem storeByte_iov : (storeByte s).iov = s.iov := by simp [storeByte]
@[simp] theorem storeByte_segmentIndex : (storeByte s).segmentIndex = s.segmentIndex := by simp [storeByte]
@[simp] theorem storeByte_cursor : (storeByte s).cursor = s.cursor + 1 := by simp [storeByte]
@[simp] theorem storeByte_curSpace : (storeByte s).curSpace = s.curSpace := by simp [storeByte]
@[simp] theorem storeByte_limit : (storeByte s).limit = s.limit := by simp [storeByte]
@[simp] theorem storeByte_transferredCount : (storeByte s).transferredCount = countSucc s.params s.transferredCount := by simp [storeByte]
@[simp] theorem storeByte_lastEvent : (storeByte s).lastEvent = s.lastEvent := by simp [storeByte]
@[simp] theorem storeByte_hdr0 : (storeByte s).hdr0 = (segWrite s.curSpace s.cursor s.data s).hdr0 := by simp [storeByte]
@[simp] theorem storeByte_hdr1 : (storeByte s).hdr1 = (segWrite s.curSpace s.cursor s.data s).hdr1 := by simp [storeByte]
@[simp] theorem storeByte_readSlot : (storeByte s).readSlot = s.readSlot := by simp [storeByte]
@[simp] theorem storeByte_writeSlot : (storeByte s).writeSlot = s.writeSlot := by simp [storeByte]
@[simp] theorem storeByte_notifyTarget : (storeByte s).notifyTarget = s.notifyTarget := by simp [storeByte]
@[simp] theorem storeByte_ownAddress : (storeByte s).ownAddress = s.ownAddress := by simp [storeByte]
@[simp] theorem storeByte_nslot : (storeByte s).nslot = s.nslot := by simp [storeByte]
@[simp] theorem storeByte_phase : (storeByte s).phase = s.phase := by simp [storeByte]
@[simp] theorem storeByte_fault : (storeByte s).fault = s.fault := by simp [storeByte]
@[simp] theorem storeByte_busLog : (storeByte s).busLog = s.busLog := by simp [storeByte]
@[simp] theorem storeByte_hostLog : (storeByte s).hostLog = s.hostLog := by simp [storeByte]
@[simp] theorem storeByte_mem : (storeByte s).mem = (segWrite s.curSpace s.cursor s.data s).mem := by simp [storeByte]
@[simp] theorem storeByte_port : (storeByte s).port = s.port := by simp [storeByte]
@[simp] theorem storeByte_awaiting : (storeByte s).awaiting = s.awaiting := by simp [storeByte]
@[simp] theorem storeByte_endless : (storeByte s).endless = s.endless := by simp [storeByte]
@[simp] theorem storeByte_turns : (storeByte s).turns = s.turns := by simp [storeByte]
@[simp] theorem storeByte_tick : (storeByte s).tick = s.tick := by simp [storeByte]

/-! ## `accept`, field by field -/

@[simp] theorem accept_params (ab : Byte) (vec : List Segment) :
    (accept ab vec s).params = s.params := rfl
@[simp] theorem accept_status (ab : Byte) (vec : List Segment) :
    (accept ab vec s).status = s.status := rfl
@[simp] theorem accept_cmd (ab : Byte) (vec : List Segment) :
    (accept ab vec s).cmd = Command.start.code := rfl
@[simp] theorem accept_data (ab : Byte) (vec : List Segment) :
    (accept ab vec s).data = s.data := rfl
@[simp] theorem accept_taddr (ab : Byte) (vec : List Segment) :
    (accept ab vec s).taddr = s.taddr := rfl
@[simp] theorem accept_div (ab : Byte) (vec : List Segment) :
    (accept ab vec s).div = s.div := rfl
@[simp] theorem accept_ctrl (ab : Byte) (vec : List Segment) :
    (accept ab vec s).ctrl = s.ctrl := rfl
@[simp] theorem accept_flags (ab : Byte) (vec : List Segment) :
    (accept ab vec s).flags = flagsWord false (flagStopp s.flags) := rfl
@[simp] theorem accept_role (ab : Byte) (vec : List Segment) :
    (accept ab vec s).role = if directionBit ab then .controllerReceive else .controllerTransmit := rfl
@[simp] theorem accept_lifecycle (ab : Byte) (vec : List Segment) :
    (accept ab vec s).lifecycle = .active := rfl
@[simp] theorem accept_address (ab : Byte) (vec : List Segment) :
    (accept ab vec s).address = ab := rfl
@[simp] theorem accept_iov (ab : Byte) (vec : List Segment) :
    (accept ab vec s).iov = fillVec s.params vec := rfl
@[simp] theorem accept_segmentIndex (ab : Byte) (vec : List Segment) :
    (accept ab vec s).segmentIndex = 0 := rfl
@[simp] theorem accept_cursor (ab : Byte) (vec : List Segment) :
    (accept ab vec s).cursor = (iovAt (fillVec s.params vec) 0).base := rfl
@[simp] theorem accept_curSpace (ab : Byte) (vec : List Segment) :
    (accept ab vec s).curSpace = (iovAt (fillVec s.params vec) 0).space := rfl
@[simp] theorem accept_limit (ab : Byte) (vec : List Segment) :
    (accept ab vec s).limit = (iovAt (fillVec s.params vec) 0).base + (iovAt (fillVec s.params vec) 0).len := rfl
@[simp] theorem accept_transferredCount (ab : Byte) (vec : List Segment) :
    (accept ab vec s).transferredCount = 0 := rfl
@[simp] theorem accept_lastEvent (ab : Byte) (vec : List Segment) :
    (accept ab vec s).lastEvent = s.lastEvent := rfl
@[simp] theorem accept_hdr0 (ab : Byte) (vec : List Segment) :
    (accept ab vec s).hdr0 = s.hdr0 := rfl
@[simp] theorem accept_hdr1 (ab : Byte) (vec : List Segment) :
    (accept ab vec s).hdr1 = s.hdr1 := rfl
@[simp] theorem accept_readSlot (ab : Byte) (vec : List Segment) :
    (accept ab vec s).readSlot = s.readSlot := rfl
@[simp] theorem accept_writeSlot (ab : Byte) (vec : List Segment) :
    (accept ab vec s).writeSlot = s.writeSlot := rfl
@[simp] theorem accept_notifyTarget (ab : Byte) (vec : List Segment) :
    (accept ab vec s).notifyTarget = s.notifyTarget := rfl
@[simp] theorem accept_ownAddress (ab : Byte) (vec : List Segment) :
    (accept ab vec s).ownAddress = s.ownAddress := rfl
@[simp] theorem accept_nslot (ab : Byte) (vec : List Segment) :
    (accept ab vec s).nslot = s.nslot := rfl
@[simp] theorem accept_phase (ab : Byte) (vec : List Segment) :
    (accept ab vec s).phase = s.phase := rfl
@[simp] theorem accept_fault (ab : Byte) (vec : List Segment) :
    (accept ab vec s).fault = s.fault := rfl
@[simp] theorem accept_busLog (ab : Byte) (vec : List Segment) :
    (accept ab vec s).busLog = s.busLog ++ [(.start, s.data)] := rfl
@[simp] theorem accept_hostLog (ab : Byte) (vec : List Segment) :
    (accept ab vec s).hostLog = s.hostLog := rfl
@[simp] theorem accept_mem (ab : Byte) (vec : List Segment) :
    (accept ab vec s).mem = s.mem := rfl
@[simp] theorem accept_port (ab : Byte) (vec : List Segment) :
    (accept ab vec s).port = s.port := rfl
@[simp] theorem accept_awaiting (ab : Byte) (vec : List Segment) :
    (accept ab vec s).awaiting = s.awaiting := rfl
@[simp] theorem accept_endless (ab : Byte) (vec : List Segment) :
    (accept ab vec s).endless = s.endless := rfl
@[simp] theorem accept_turns (ab : Byte) (vec : List Segment) :
    (accept ab vec s).turns = s.turns := rfl
@[simp] theorem accept_tick (ab : Byte) (vec : List Segment) :
    (accept ab vec s).tick = s.tick := rfl

/-! ## The sequencer's actions -/

/-- CT_SEND after the advance: a byte goes out, or the stop path is taken. -/
theorem ctSendOrStop_next (u : State) (h : ctSendOrStop s = .next u) :
    (s.cursor < s.limit ∧ spaceHas s.params s.curSpace s.cursor = true ∧
      u = { issue .data (loadByte s) with
            transferredCount := countSucc s.params s.transferredCount }) ∨
    (s.limit ≤ s.cursor ∧ u = stopThen .kIdle s) := by
  unfold ctSendOrStop at h
  split at h
  · next hlt =>
    obtain ⟨hs, rfl⟩ := (atCursor_next_iff _ _ _).mp h
    exact .inl ⟨hlt, hs, rfl⟩
  · next hge => cases h; exact .inr ⟨by omega, rfl⟩

/-- The entry walked on to is the vector's own, or has its space and base and no byte. -/
theorem walkEntry_cases (iov : List Segment) (k : Nat) :
    (pastSentinel iov k = false ∧ walkEntry iov k = iovAt iov k) ∨
    (pastSentinel iov k = true ∧ walkEntry iov k = { iovAt iov k with len := 0 }) := by
  unfold walkEntry
  cases pastSentinel iov k <;> simp

/-- A sentinel stands before an index. -/
theorem pastSentinel_iff (iov : List Segment) (k : Nat) :
    pastSentinel iov k = true ↔ ∃ x ∈ iov.take k, x.len = 0 := by
  simp [pastSentinel]

/-- The advance moves to the next entry when the segment is exhausted and one is left. -/
theorem ctAdvance_cases :
    (s.cursor = s.limit ∧ s.segmentIndex < s.params.n ∧
      ctAdvance s = walkSegment (walkEntry s.iov (s.segmentIndex + 1))
        { s with segmentIndex := s.segmentIndex + 1 }) ∨
    (¬(s.cursor = s.limit ∧ s.segmentIndex < s.params.n) ∧ ctAdvance s = s) := by
  unfold ctAdvance
  split
  · next h => exact .inl ⟨h.1, h.2, rfl⟩
  · next h => exact .inr ⟨h, rfl⟩

/-- A controller-receive data event stores a byte and goes on, or faults for want of room. -/
theorem crStore_next (after : State → State) (u : State) (h : crStore after s = .next u) :
    (s.cursor < s.limit ∧ spaceHas s.params s.curSpace s.cursor = true ∧ u = after (storeByte s)) ∨
    (s.limit ≤ s.cursor ∧ u = raiseFault .bufferOverrun s) := by
  unfold crStore at h
  split at h
  · next hge => cases h; exact .inr ⟨hge, rfl⟩
  · next hlt =>
    obtain ⟨hs, rfl⟩ := (atCursor_next_iff _ _ _).mp h
    exact .inl ⟨by omega, hs, rfl⟩

/-- TT_SEND sends the next byte with ACK, or the sentinel byte with NACK. -/
theorem ttSend_next (u : State) (h : ttSend s = .next u) :
    (s.cursor < s.limit ∧ spaceHas s.params s.curSpace s.cursor = true ∧
      u = issue .ack (loadByte s)) ∨
    (s.limit ≤ s.cursor ∧ u = issue .nack { s with data := sentinelByte }) := by
  unfold ttSend at h
  split at h
  · next hlt =>
    obtain ⟨hs, rfl⟩ := (atCursor_next_iff _ _ _).mp h
    exact .inl ⟨hlt, hs, rfl⟩
  · next hge => cases h; exact .inr ⟨by omega, rfl⟩

/-- TR_STORE stores the byte with ACK, or discards it with NACK. -/
theorem trStore_next (u : State) (h : trStore s = .next u) :
    (s.cursor < s.limit ∧ spaceHas s.params s.curSpace s.cursor = true ∧
      u = issue .ack (storeByte s)) ∨
    (s.limit ≤ s.cursor ∧ u = issue .nack s) := by
  unfold trStore at h
  split at h
  · next hlt =>
    obtain ⟨hs, rfl⟩ := (atCursor_next_iff _ _ _).mp h
    exact .inl ⟨hlt, hs, rfl⟩
  · next hge => cases h; exact .inr ⟨by omega, rfl⟩

/-- The ACK decision issues one command. -/
theorem crAckDecide_cases :
    (1 < s.limit - s.cursor ∧ crAckDecide s = issue .ack s) ∨
    (s.limit - s.cursor ≤ 1 ∧ crAckDecide s = issue .nack s) := by
  unfold crAckDecide
  split
  · exact .inl ⟨‹_›, rfl⟩
  · exact .inr ⟨by omega, rfl⟩

/-- The three continuations, and the post that faults. -/
theorem resume_cases (k : Continuation) :
    (k = .kIdle ∧ resume k s = { s with lifecycle := .idle, phase := .ready }) ∨
    (k = .kError ∧
      resume k s = { s with transferredCount := -1, lifecycle := .error, phase := .ready }) ∨
    (k = .kTrDone ∧ s.notifyTarget = Recipient.null ∧
      resume k s = { s with lifecycle := .idle, taddr := 0x00, phase := .ready }) ∨
    (k = .kTrDone ∧ s.notifyTarget ≠ Recipient.null ∧ s.nslot.full = false ∧
      resume k s = { s with
        lifecycle := .idle, taddr := 0x00, phase := .ready
        nslot := ⟨true, s.notifyTarget, s.transferredCount⟩ }) ∨
    (k = .kTrDone ∧ s.notifyTarget ≠ Recipient.null ∧ s.nslot.full = true ∧
      resume k s = { s with lifecycle := .idle, taddr := 0x00, fault := some .notifyOverrun }) := by
  cases k with
  | kIdle => simp [resume]
  | kError => simp [resume]
  | kTrDone =>
    by_cases hn : s.notifyTarget = Recipient.null
    · exact .inr (.inr (.inl ⟨rfl, hn, by simp [resume, postOverruns, post, hn]⟩))
    · cases hf : s.nslot.full with
      | false => exact .inr (.inr (.inr (.inl ⟨rfl, hn, rfl, by simp [resume, postOverruns, post, hn, hf]⟩)))
      | true => exact .inr (.inr (.inr (.inr ⟨rfl, hn, rfl, by simp [resume, postOverruns, hn, hf, raiseFault]⟩)))

/-! ## Host operations -/

/-- A request is turned away, accepted, or faults. -/
theorem requestOr_cases (contract : Bool) (accepted : State) :
    (requestRefused s = true ∧ requestOr contract accepted s = hostReturn (.result false) s) ∨
    (requestRefused s = false ∧ contract = true ∧
      requestOr contract accepted s = hostReturn (.result true) accepted) ∨
    (requestRefused s = false ∧ contract = false ∧
      requestOr contract accepted s = raiseFault .hostContractVec s) := by
  unfold requestOr
  cases requestRefused s <;> cases contract <;> simp

/-- The host contract on a vector, clause by clause (spec/44_host_operations.md R130). -/
theorem vecContract_iff (p : Params) (vec : List Segment) :
    vecContract p vec = true ↔
      (∀ x ∈ vec, x.space = .mem ∧ x.base + x.len ≤ 2 ^ p.aw) ∧ (∃ x ∈ vec, x.len = 0) ∧
        ((vec.takeWhile (fun x => x.len ≠ 0)).map Segment.len).sum ≤ p.countMax := by
  have hw : (fun x : Segment => x.len != 0) = fun x => decide (x.len ≠ 0) := by
    funext x; by_cases h : x.len = 0 <;> simp [h]
  simp only [vecContract, hostSegmentOk, activeTotal, activeSegments, hw, Bool.and_eq_true,
    List.all_eq_true, List.any_eq_true, decide_eq_true_eq, beq_iff_eq, and_assoc]

/-- The contract on a plain payload. -/
theorem payload_contract_iff (p : Params) (buf size : Nat) :
    vecContract p (payloadVec buf size) = true ↔ buf + size ≤ 2 ^ p.aw ∧ size ≤ p.countMax := by
  by_cases h : size = 0 <;>
    simp [vecContract, payloadVec, hostSegmentOk, Segment.sentinel, activeTotal, activeSegments, h]

/-- The contract on a header and its payload. -/
theorem headerContract_iff (p : Params) (k buf size : Nat) :
    headerContract p k buf size = true ↔ buf + size ≤ 2 ^ p.aw ∧ k + size ≤ p.countMax := by
  simp only [headerContract, Bool.and_eq_true, payload_contract_iff, decide_eq_true_eq]
  omega

/-- A request is turned away exactly while ACTIVE or with the engine off. -/
theorem requestRefused_iff :
    requestRefused s = true ↔ s.lifecycle = .active ∨ ctrlEn s.ctrl = false := by
  simp [requestRefused]

/-- The registers an accepted `begin` writes, by mode. -/
theorem configure_cases (a : Byte) :
    (a = 0 ∧ configure a s =
      { s with ctrl := ctrlWord true true true, div := s.params.divValue, taddr := 0x00 }) ∨
    (a ≠ 0 ∧ configure a s =
      { s with
        ctrl := ctrlWord true true (ctrlPullup s.ctrl), taddr := filterValue (a.setWidth 7) }) := by
  by_cases h : a = 0
  · exact .inl ⟨h, if_pos h⟩
  · exact .inr ⟨h, if_neg h⟩

/-- `execEndOp` faults while ACTIVE and disables the engine otherwise. -/
theorem execEndOp_cases :
    (s.lifecycle = .active ∧ execEndOp s = .next (raiseFault .hostContractEndActive s)) ∨
    (s.lifecycle ≠ .active ∧ execEndOp s = .next (hostReturn .none
      { s with
        notifyTarget := Recipient.null, ctrl := 0x00
        flags := flagsWord false (flagStopp s.flags) })) := by
  by_cases h : s.lifecycle = .active
  · exact .inl ⟨h, if_pos h⟩
  · exact .inr ⟨h, if_neg h⟩

end Sys2Proof.Machine
end

