-- ==== Sys2Proof/Laws/Exec.lean ====
section
/-!
SUPPORT. What an instruction can do when it answers a next state, said once per interface: the provers
take these cases instead of unfolding `exec`.
-/

namespace Sys2Proof.Machine

variable (i : Instr) (s u : State)

/-- A command issues itself and nothing else. -/
theorem exec_command (hf : i.format = .cmd) (h : exec i s = .next u) :
    ∃ c : Command, u = issue c s := by
  cases i <;> cases hf <;> cases h <;> exact ⟨_, rfl⟩

/-- What an event can do: the shapes of the transition table (spec/41_status_decoder.md R86). -/
theorem exec_event (hf : i.format = .status) (h : exec i s = .next u) :
    (i ∈ [Instr.evStart, .evRepStart] ∧ u = sendAddress s) ∨
    (i = .evArbLost ∧ u = { issue .idle s with lifecycle := .error, transferredCount := -1 }) ∨
    (i ∈ [Instr.evCtAddrAck, .evCtDataAck] ∧ ctSendOrStop (ctAdvance s) = .next u) ∨
    (i ∈ [Instr.evCtDataNack, .evCtAddrNack, .evCrAddrNack, .evTrStop, .evBusError, .evTrDataNack,
        .evTrGcallDataNack, .evTtAddrNack, .evTrAddrNack, .evNoInfo] ∧ ∃ k, u = stopThen k s) ∨
    (i = .evCrAddrAck ∧ u = crAckDecide s) ∨
    (i = .evCrDataAck ∧ crStore crAckDecide s = .next u) ∨
    (i = .evCrDataNack ∧ crStore (stopThen .kIdle) s = .next u) ∨
    (i ∈ [Instr.evTtAddrAck, .evTtArbLostAddrAck] ∧ ttSend (ttSelect s) = .next u) ∨
    (i = .evTtDataAck ∧ ttSend s = .next u) ∨
    (i ∈ [Instr.evTtDataNack, .evTtLastData] ∧ u = ttFinish s) ∨
    (i ∈ [Instr.evTrAddrAck, .evTrArbLostAddrAck, .evTrGcallAck, .evTrArbLostGcallAck] ∧
      u = trSelect s) ∨
    (i ∈ [Instr.evTrDataAck, .evTrGcallDataAck] ∧ trStore s = .next u) ∨
    (i ∈ [Instr.evUnrecognizedD0, .evUnrecognizedD8, .evUnrecognizedE0, .evUnrecognizedE8,
        .evUnrecognizedF0] ∧ u = issue .idle s) := by
  cases i <;> first
    | (cases hf; done)
    | (cases h; simp; done)
    | (cases h; simp; exact ⟨_, rfl⟩)
    | (replace h : crStore crAckDecide s = .next u := h; simp [h])
    | (replace h : crStore (stopThen .kIdle) s = .next u := h; simp [h])
    | (replace h : ctSendOrStop (ctAdvance s) = .next u := h; simp [h])
    | (replace h : ttSend (ttSelect s) = .next u := h; simp [h])
    | (replace h : ttSend s = .next u := h; simp [h])
    | (replace h : trStore s = .next u := h; simp [h])

/-- The sequencer leaves the header store alone, as spec/10_state.md R34 and spec/60_exceptions.md R153
say, wherever the parameters do not let a receive event write it (log 24). -/
theorem exec_event_hdr_unwritten (hf : i.format = .status) (h : exec i s = .next u)
    (hp : s.params.receiveWritesHdr = false) : u.hdr0 = s.hdr0 ∧ u.hdr1 = s.hdr1 := by
  have store : (storeByte s).hdr0 = s.hdr0 ∧ (storeByte s).hdr1 = s.hdr1 := by
    simpa using segWrite_hdr_unwritten s.curSpace s.cursor s.data s hp
  rcases exec_event i s u hf h with ⟨_, rfl⟩ | ⟨_, rfl⟩ | ⟨_, h⟩ | ⟨_, _, rfl⟩ | ⟨_, rfl⟩ | ⟨_, h⟩ |
    ⟨_, h⟩ | ⟨_, h⟩ | ⟨_, h⟩ | ⟨_, rfl⟩ | ⟨_, rfl⟩ | ⟨_, h⟩ | ⟨_, rfl⟩
  case inr.inr.inl =>
    rcases ctSendOrStop_next _ _ h with ⟨_, _, rfl⟩ | ⟨_, rfl⟩ <;>
      rcases ctAdvance_cases s with ⟨_, _, h⟩ | ⟨_, h⟩ <;> rw [h] <;> exact ⟨rfl, rfl⟩
  case inr.inr.inr.inr.inl => rcases crAckDecide_cases s with ⟨_, h⟩ | ⟨_, h⟩ <;> simp [h]
  case inr.inr.inr.inr.inr.inl =>
    rcases crStore_next _ _ _ h with ⟨_, _, rfl⟩ | ⟨_, rfl⟩
    · rcases crAckDecide_cases (storeByte s) with ⟨_, h⟩ | ⟨_, h⟩ <;> rw [h] <;> exact store
    · exact ⟨rfl, rfl⟩
  case inr.inr.inr.inr.inr.inr.inl =>
    rcases crStore_next _ _ _ h with ⟨_, _, rfl⟩ | ⟨_, rfl⟩
    · exact store
    · exact ⟨rfl, rfl⟩
  case inr.inr.inr.inr.inr.inr.inr.inl =>
    rcases ttSend_next _ _ h with ⟨_, _, rfl⟩ | ⟨_, rfl⟩ <;> exact ⟨rfl, rfl⟩
  case inr.inr.inr.inr.inr.inr.inr.inr.inl =>
    rcases ttSend_next _ _ h with ⟨_, _, rfl⟩ | ⟨_, rfl⟩ <;> exact ⟨rfl, rfl⟩
  case inr.inr.inr.inr.inr.inr.inr.inr.inr.inr.inr.inl =>
    rcases trStore_next _ _ h with ⟨_, _, rfl⟩ | ⟨_, rfl⟩
    · exact store
    · exact ⟨rfl, rfl⟩
  all_goals exact ⟨rfl, rfl⟩

/-- The host operations that make a request with a header. -/
def headerRequest : Instr → Prop
  | .writeRequestH8 _ _ _ _ => True
  | .writeRequestH16 _ _ _ _ => True
  | _ => False

/-- The vector a request walks: a host vector within its contract, or the block's own header and
payload. -/
def requestVector (p : Params) (i : Instr) (vec : List Segment) : Prop :=
  ((∃ ab, i = .request ab vec) ∧ vecContract p vec = true) ∨
  (∃ a buf size, (i = .writeRequest a buf size ∨ i = .readRequest a buf size) ∧
    vec = payloadVec buf size ∧ vecContract p vec = true) ∨
  (∃ a h buf size, i = .writeRequestH8 a h buf size ∧ vec = headerVec 1 buf size ∧
    headerContract p 1 buf size = true) ∨
  (∃ a h buf size, i = .writeRequestH16 a h buf size ∧ vec = headerVec 2 buf size ∧
    headerContract p 2 buf size = true)

/-- The address byte of a write has its direction bit clear (spec/30_encoding.md R63). -/
theorem directionBit_write (a : BitVec 7) : directionBit (addressByte a false) = false := by
  rw [directionBit, addressByte, BitVec.getLsbD_append]
  rfl

/-- What a host operation can do. -/
theorem exec_hostOp (hf : i.format = .hostOp) (h : exec i s = .next u) :
    (u = s ∧ s.lifecycle = .active) ∨
    (∃ r, u = hostReturn r s ∧ r ≠ .result true) ∨
    (∃ r, u = raiseFault r s) ∨
    (∃ notify a, i = .begin notify a ∧ s.lifecycle ≠ .active ∧
      u = hostReturn (.result true)
        (issue .idle (configure a { s with notifyTarget := notify, ownAddress := a.setWidth 7 }))) ∨
    (i = .endOp ∧ s.lifecycle ≠ .active ∧
      u = hostReturn .none { s with
        notifyTarget := Recipient.null, ctrl := 0x00
        flags := flagsWord false (flagStopp s.flags) }) ∨
    (isRequest i = true ∧ requestRefused s = false ∧ ∃ ab vec h0 h1, requestVector s.params i vec ∧
      ((¬headerRequest i ∧ h0 = s.hdr0 ∧ h1 = s.hdr1) ∨ (headerRequest i ∧ directionBit ab = false)) ∧
      u = hostReturn (.result true) (accept ab vec { s with hdr0 := h0, hdr1 := h1 })) ∨
    (∃ buf size, i = .setWriteBuf buf size ∧ slotContract s.params buf size = true ∧
      u = hostReturn .none { s with writeSlot := ⟨buf, size⟩ }) ∨
    (∃ buf size, i = .setReadBuf buf size ∧ slotContract s.params buf size = true ∧
      u = hostReturn .none { s with readSlot := ⟨buf, size⟩ }) ∨
    (i = .dispatch ∧ s.nslot.full = true ∧
      u = hostReturn (.result true)
        { hostReturn (.onRequest s.nslot.recipient s.writeSlot.base s.nslot.count) s with
          nslot := ⟨false, Recipient.null, 0⟩
          taddr := filterValue s.ownAddress }) := by
  cases i <;> try (cases hf; done)
  case begin notify a =>
    simp only [exec, execBegin] at h
    split at h
    · cases h; exact .inr (.inl ⟨_, rfl, by simp⟩)
    · next hb =>
      cases h
      refine .inr (.inr (.inr (.inl ⟨_, _, rfl, fun hl => hb ?_, rfl⟩)))
      simp [beginRefused, hl]
  case endOp =>
    rcases execEndOp_cases s with ⟨_, hc⟩ | ⟨hl, hc⟩ <;> rw [exec, hc] at h <;> cases h
    · exact .inr (.inr (.inl ⟨_, rfl⟩))
    · exact .inr (.inr (.inr (.inr (.inl ⟨rfl, hl, rfl⟩))))
  case request ab vec =>
    simp only [exec, execRequest, requestVec] at h
    rcases requestOr_cases s (vecContract s.params vec) (accept ab vec s) with
      ⟨_, hc⟩ | ⟨hr, hv, hc⟩ | ⟨_, _, hc⟩ <;> rw [hc] at h <;> cases h
    · exact .inr (.inl ⟨_, rfl, by simp⟩)
    · exact .inr (.inr (.inr (.inr (.inr (.inl ⟨rfl, hr, _, _, s.hdr0, s.hdr1,
        .inl ⟨⟨_, rfl⟩, hv⟩, .inl ⟨id, rfl, rfl⟩, rfl⟩)))))
    · exact .inr (.inr (.inl ⟨_, rfl⟩))
  case writeRequest a buf size =>
    simp only [exec, execWriteRequest, requestVec] at h
    rcases requestOr_cases s (vecContract s.params (payloadVec buf size))
      (accept (addressByte a false) (payloadVec buf size) s) with
      ⟨_, hc⟩ | ⟨hr, hv, hc⟩ | ⟨_, _, hc⟩ <;> rw [hc] at h <;> cases h
    · exact .inr (.inl ⟨_, rfl, by simp⟩)
    · exact .inr (.inr (.inr (.inr (.inr (.inl ⟨rfl, hr, _, _, s.hdr0, s.hdr1,
        .inr (.inl ⟨a, buf, size, .inl rfl, rfl, hv⟩), .inl ⟨id, rfl, rfl⟩, rfl⟩)))))
    · exact .inr (.inr (.inl ⟨_, rfl⟩))
  case readRequest a buf size =>
    simp only [exec, execReadRequest, requestVec] at h
    rcases requestOr_cases s (vecContract s.params (payloadVec buf size))
      (accept (addressByte a true) (payloadVec buf size) s) with
      ⟨_, hc⟩ | ⟨hr, hv, hc⟩ | ⟨_, _, hc⟩ <;> rw [hc] at h <;> cases h
    · exact .inr (.inl ⟨_, rfl, by simp⟩)
    · exact .inr (.inr (.inr (.inr (.inr (.inl ⟨rfl, hr, _, _, s.hdr0, s.hdr1,
        .inr (.inl ⟨a, buf, size, .inr rfl, rfl, hv⟩), .inl ⟨id, rfl, rfl⟩, rfl⟩)))))
    · exact .inr (.inr (.inl ⟨_, rfl⟩))
  case writeRequestH8 a hd buf size =>
    simp only [exec, execWriteRequestH8] at h
    rcases requestOr_cases s (headerContract s.params 1 buf size)
      (accept (addressByte a false) (headerVec 1 buf size) { s with hdr0 := hd }) with
      ⟨_, hc⟩ | ⟨hr, hv, hc⟩ | ⟨_, _, hc⟩ <;> rw [hc] at h <;> cases h
    · exact .inr (.inl ⟨_, rfl, by simp⟩)
    · exact .inr (.inr (.inr (.inr (.inr (.inl ⟨rfl, hr, _, _, hd, s.hdr1,
        .inr (.inr (.inl ⟨a, hd, buf, size, rfl, rfl, hv⟩)),
        .inr ⟨trivial, directionBit_write a⟩, rfl⟩)))))
    · exact .inr (.inr (.inl ⟨_, rfl⟩))
  case writeRequestH16 a hd buf size =>
    simp only [exec, execWriteRequestH16] at h
    rcases requestOr_cases s (headerContract s.params 2 buf size)
      (accept (addressByte a false) (headerVec 2 buf size)
        { s with hdr0 := hd.extractLsb' 8 8, hdr1 := hd.extractLsb' 0 8 }) with
      ⟨_, hc⟩ | ⟨hr, hv, hc⟩ | ⟨_, _, hc⟩ <;> rw [hc] at h <;> cases h
    · exact .inr (.inl ⟨_, rfl, by simp⟩)
    · exact .inr (.inr (.inr (.inr (.inr (.inl ⟨rfl, hr, _, _, _, _,
        .inr (.inr (.inr ⟨a, hd, buf, size, rfl, rfl, hv⟩)),
        .inr ⟨trivial, directionBit_write a⟩, rfl⟩)))))
    · exact .inr (.inr (.inl ⟨_, rfl⟩))
  case awaitCompleted m =>
    simp only [exec, execAwaitCompleted] at h
    split at h <;> cases h
    · next ha => exact .inl ⟨rfl, by simpa [awaitHolds] using ha⟩
    · exact .inr (.inl ⟨_, rfl, by simp⟩)
  case setWriteBuf buf size =>
    simp only [exec, execSetWriteBuf] at h
    split at h <;> cases h
    · next hc => exact .inr (.inr (.inr (.inr (.inr (.inr (.inl ⟨_, _, rfl, hc, rfl⟩))))))
    · exact .inr (.inr (.inl ⟨_, rfl⟩))
  case setReadBuf buf size =>
    simp only [exec, execSetReadBuf] at h
    split at h <;> cases h
    · next hc => exact .inr (.inr (.inr (.inr (.inr (.inr (.inr (.inl ⟨_, _, rfl, hc, rfl⟩)))))))
    · exact .inr (.inr (.inl ⟨_, rfl⟩))
  case dispatch =>
    simp only [exec, execDispatch] at h
    split at h <;> cases h
    · next hc => exact .inr (.inr (.inr (.inr (.inr (.inr (.inr (.inr ⟨rfl, hc, rfl⟩)))))))
    · exact .inr (.inl ⟨_, rfl, by simp⟩)

end Sys2Proof.Machine
end

