-- ==== Sys2Proof/Laws/Step.lean ====
section
/-!
SUPPORT. What one step can do, and small facts about turns and the invariant's pieces.
-/

namespace Sys2Proof.Machine

/-- The next turn only takes the first given turn or advances the draw index. -/
theorem nextTurn_cases (s : State) :
    (∃ t ts, s.turns = t :: ts ∧ nextTurn s = (t, { s with turns := ts })) ∨
    (s.turns = [] ∧ nextTurn s = (.agent (Config.freeMove s.tick), { s with tick := s.tick + 1 })) := by
  unfold nextTurn
  split
  · next t ts h => exact .inl ⟨t, ts, h, rfl⟩
  · next h => exact .inr ⟨h, rfl⟩

/-- The step of a given turn. -/
theorem step_given (s : State) (t : Turn) (ts : List Turn) (hf : s.fault = none)
    (ht : s.turns = t :: ts) : step s = performTurn t { s with turns := ts } := by
  simp only [step, hf, nextTurn, ht]

/-- The step of a free turn. -/
theorem step_free (s : State) (hf : s.fault = none) (ht : s.turns = []) :
    step s = performTurn (.agent (Config.freeMove s.tick)) { s with tick := s.tick + 1 } := by
  simp only [step, hf, nextTurn, ht]

/-- An enabled move is performed. -/
theorem performTurn_enabled (m : Move) (s : State) (h : enabled m s = true) :
    performTurn (.agent m) s = performMove m s := if_pos h

/-- A move that is not enabled passes. -/
theorem performTurn_pass (m : Move) (s : State) (h : enabled m s = false) :
    performTurn (.agent m) s = .next s := by simp [performTurn, h]

/-- Which moves are enabled depends on neither the turn list nor the draw index. -/
theorem enabled_turns (m : Move) (s : State) (ts : List Turn) (k : Nat) :
    enabled m { s with turns := ts, tick := k } = enabled m s := rfl

/-- The step of a given move that is enabled. -/
theorem step_given_enabled (s : State) (m : Move) (ts : List Turn) (hf : s.fault = none)
    (ht : s.turns = .agent m :: ts) (he : enabled m s = true) :
    step s = performMove m { s with turns := ts } := by
  rw [step_given s _ ts hf ht]
  exact performTurn_enabled m { s with turns := ts } he

/-- The step of a given move that is not enabled. -/
theorem step_given_pass (s : State) (m : Move) (ts : List Turn) (hf : s.fault = none)
    (ht : s.turns = .agent m :: ts) (he : enabled m s = false) :
    step s = .next { s with turns := ts } := by
  rw [step_given s _ ts hf ht]
  exact performTurn_pass m { s with turns := ts } he

/-- The host is in a hold exactly when it has called the `await_completed` at the port and the lifecycle is
ACTIVE still (spec/44_host_operations.md R136). -/
theorem hostHolds_iff (s : State) :
    hostHolds s = true ↔ s.awaiting = true ∧ s.lifecycle = .active ∧
      ∃ m rest, fetchHostOp s = .ok (.awaitCompleted m, rest) := by
  unfold hostHolds
  cases hf : fetchHostOp s with
  | error e => simp
  | ok x =>
    obtain ⟨i, rest⟩ := x
    cases i <;> simp [callHolds, awaitHolds]

/-- In a hold no move of the host is enabled (spec/00_scope.md R9, R10). -/
theorem hold_disables_host (s : State) (h : hostHolds s = true) :
    enabled .host s = false ∧ (∀ a v, enabled (.hostStore a v) s = false) ∧
      ∀ bs, enabled (.hostProgram bs) s = false := by
  simp [enabled, hostRuns, h]

/-- Everything a step that answers a next state can be: a pass, the sequencer's event or resume step,
a host operation, the host's entry into a hold, a host store, the arrival of further host operations,
one of the environment's two steps, or a mock's command. `v` is the state in which the turn is taken. -/
theorem step_cases (s u : State) (h : step s = .next u) :
    s.fault = none ∧ ∃ v, v = (nextTurn s).2 ∧
      ((∃ m, (nextTurn s).1 = .agent m ∧ enabled m v = false ∧ u = v) ∨
       ((nextTurn s).1 = .agent .sequencer ∧ v.phase = .ready ∧ irq v = true ∧
         exec (fetchEvent v) (enterHandler v) = .next u) ∨
       (∃ k, (nextTurn s).1 = .agent .sequencer ∧ v.phase = .waitStop k ∧
         flagStopp v.flags = false ∧ u = resume k v) ∨
       (∃ i rest, (nextTurn s).1 = .agent .host ∧ v.phase = .ready ∧
         fetchHostOp v = .ok (i, rest) ∧ callHolds i v = false ∧
         exec i { v with port := rest, awaiting := false } = .next u) ∨
       (∃ m rest, (nextTurn s).1 = .agent .host ∧ v.phase = .ready ∧
         fetchHostOp v = .ok (.awaitCompleted m, rest) ∧ v.lifecycle = .active ∧
         v.awaiting = false ∧ u = { v with awaiting := true }) ∨
       (∃ a b, (nextTurn s).1 = .agent (.hostStore a b) ∧ v.phase = .ready ∧ hostHolds v = false ∧
         a < 2 ^ v.params.aw ∧ u = hostStoreByte a b v) ∨
       (∃ bs, (nextTurn s).1 = .agent (.hostProgram bs) ∧ v.phase = .ready ∧ v.endless = true ∧
         v.port = [] ∧ bs ≠ [] ∧ u = receiveProgram bs v) ∨
       (∃ st d, (nextTurn s).1 = .agent (.busEvent st d) ∧ ctrlEn v.ctrl = true ∧
         flagIntf v.flags = false ∧ u = raiseEvent st d v) ∨
       ((nextTurn s).1 = .agent .stopClear ∧ flagStopp v.flags = true ∧ u = clearStop v) ∨
       (∃ c i, (nextTurn s).1 = .mockCommand c ∧ decodeCommand c = .ok i ∧ exec i v = .next u)) := by
  unfold step at h
  split at h
  · simp at h
  · next hf =>
    refine ⟨hf, _, rfl, ?_⟩
    cases ht : (nextTurn s).1 with
    | mockCommand c =>
      rw [ht] at h
      simp only [performTurn, performMockCommand, fetchCommand] at h
      split at h
      · next i hi => simp_all
      · simp at h
    | agent m =>
      rw [ht] at h
      simp only [performTurn] at h
      cases he : enabled m (nextTurn s).2 with
      | false => rw [he] at h; simp at h; exact .inl ⟨m, rfl, he, h.symm⟩
      | true =>
        rw [he] at h
        simp only [if_true] at h
        cases m with
        | sequencer =>
          simp only [performMove, performSequencer] at h
          simp only [enabled, sequencerEnabled] at he
          split at h
          · next hp => rw [hp] at he; simp_all
          · next k hp => rw [hp] at he; simp_all
        | host =>
          simp only [performMove, performHost] at h
          simp only [enabled, hostRuns] at he
          split at h
          · next i rest hi =>
            simp only [hostHolds, hi] at he
            cases hc : callHolds i (nextTurn s).2 with
            | false => simp_all [callHostOp]
            | true =>
              rw [hc] at he
              obtain ⟨m, rfl⟩ : ∃ m, i = .awaitCompleted m := by
                cases i <;> simp_all [callHolds]
              simp only [callHolds, awaitHolds, decide_eq_true_eq] at hc
              simp_all [callHostOp, callHolds, awaitHolds, exec, execAwaitCompleted]
          · simp at h
        | hostStore a b => simp_all [performMove, enabled, hostRuns]
        | hostProgram bs => simp_all [performMove, enabled, hostRuns]
        | busEvent st d => simp_all [performMove, enabled]
        | stopClear => simp_all [performMove, enabled]

/-- Reserved fields read 0 at reset. -/
theorem reset_registers : RegistersOk State.reset := by decide

/-- The bytes of one table word are placed as the next turn: the host's, the sequencer's or a mock's. -/
theorem withFetchWord_turns (s : State) (nbits w : Nat) :
    ∃ t, (s.withFetchWord nbits w).turns = t :: s.turns := by
  unfold State.withFetchWord placeTableWord
  dsimp only
  split <;> exact ⟨_, rfl⟩

end Sys2Proof.Machine
end

