-- ==== Sys2Proof/Laws/Header.lean ====
section
/-!
SUPPORT. The header store along a run on a conforming bus: only an accepted write with a header changes
it, as spec/10_state.md R34 and spec/60_exceptions.md R153 say, whatever `receiveWritesHdr` is (log 24).
-/

namespace Sys2Proof.Machine

/-- The commands that ask for or answer a received or target byte. -/
def isAnswer (c : Command) : Prop := c = .ack ∨ c = .nack

/-- What keeps a receive event out of the header store: a walk or vector with a header belongs to a
write, the last command is ACK or NACK only over data memory, and a pending event of a byte that an ACK
or NACK asked for, or of a read, comes after such a command, or over a read's address byte. -/
structure HeaderQuiet (s : State) : Prop where
  defaultMap : s.params.statusMap = Config.statusMap
  write : s.curSpace = .hdr ∨ (∃ e ∈ s.iov, e.space = .hdr) → directionBit s.address = false
  answer : ∀ e, s.busLog.getLast? = some e → isAnswer e.1 → s.curSpace = .mem
  pending : flagIntf s.flags = true → (statusCode s.status).toNat ∈ [10, 11, 16, 18, 23, 24, 25] →
    ∃ e, s.busLog.getLast? = some e ∧ isAnswer e.1
  read : flagIntf s.flags = true → (statusCode s.status).toNat = 8 → directionBit s.address = true

/-- It holds after reset. -/
theorem reset_headerQuiet : HeaderQuiet State.reset where
  defaultMap := rfl
  write := by decide
  answer := by simp [State.reset, State.resetWith]
  pending hi := absurd hi (by decide)
  read := by decide

variable {s u : State}

/-- It depends on the parameters, the walk's space, the vector, the address, the last command and the
pending event alone. -/
theorem HeaderQuiet.congr (h : HeaderQuiet s) (hp : u.params = s.params) (hc : u.curSpace = s.curSpace)
    (hi : u.iov = s.iov) (ha : u.address = s.address) (hb : u.busLog = s.busLog)
    (hs : u.status = s.status) (hf : flagIntf u.flags = true → flagIntf s.flags = true) :
    HeaderQuiet u where
  defaultMap := hp ▸ h.defaultMap
  write := by rw [hc, hi, ha]; exact h.write
  answer := by rw [hb, hc]; exact h.answer
  pending hi := by rw [hs, hb]; exact h.pending (hf hi)
  read hi := by rw [hs, ha]; exact h.read (hf hi)

/-- A command leaves no event pending, so that what remains is the walk. -/
theorem HeaderQuiet.issue (c : Command) (hm : s.params.statusMap = Config.statusMap)
    (hw : s.curSpace = .hdr ∨ (∃ e ∈ s.iov, e.space = .hdr) → directionBit s.address = false)
    (hc : isAnswer c → s.curSpace = .mem) : HeaderQuiet (Machine.issue c s) where
  defaultMap := hm
  write := hw
  answer e he := by
    simp only [issue_busLog, List.getLast?_append, List.getLast?_singleton, Option.some_or,
      Option.some.injEq] at he
    subst he
    exact hc
  pending hi := by simp at hi
  read hi := by simp at hi

/-- The codes of the default map for the events that need an ACK, a NACK or a read before them. -/
theorem decodeStatus_codes (p : Params) (hp : p.statusMap = Config.statusMap) (st : Byte) :
    (decodeStatus p st ∈ [Instr.evCrDataAck, .evCrDataNack, .evTrDataAck, .evTrGcallDataAck, .evTtDataAck,
      .evTtDataNack, .evTtLastData] → (statusCode st).toNat ∈ [10, 11, 16, 18, 23, 24, 25]) ∧
    (decodeStatus p st = .evCrAddrAck → (statusCode st).toNat = 8) := by
  unfold decodeStatus decodeEvent
  rw [hp]
  generalize statusCode st = c
  revert c
  decide

/-- The codes of R82's table that need an ACK or NACK come after one, and a read's address
acknowledgement over a read's address byte. -/
theorem successorCodes_answer (s : State) (c : Nat) (hc : c ∈ successorCodes s s.busLog.reverse) :
    (c ∈ [10, 11, 16, 18, 23, 24, 25] → ∃ e, s.busLog.getLast? = some e ∧ isAnswer e.1) ∧
    (c = 8 → directionBit s.address = true) := by
  have hl : s.busLog.getLast? = s.busLog.reverse.head? := by simp
  rw [hl]
  cases hr : s.busLog.reverse with
  | nil =>
    rw [hr, successorCodes, selectionCodes] at hc
    revert hc
    (repeat' split) <;> simp <;> omega
  | cons e log =>
    obtain ⟨cmd, d⟩ := e
    rw [hr] at hc
    cases cmd with
    | ack =>
      refine ⟨fun _ => ⟨_, rfl, .inl rfl⟩, fun h8 => ?_⟩
      subst h8
      revert hc
      simp only [successorCodes, selectionCodes]
      (repeat' split) <;> simp
    | nack =>
      refine ⟨fun _ => ⟨_, rfl, .inr rfl⟩, fun h8 => ?_⟩
      subst h8
      revert hc
      simp only [successorCodes]
      (repeat' split) <;> simp
    | data =>
      revert hc
      simp only [successorCodes]
      (repeat' split) <;> simp <;> intro hc <;> first | omega | exact ⟨by omega, fun _ => by assumption⟩
    | start =>
      revert hc
      simp only [successorCodes]
      split <;> simp <;> omega
    | idle =>
      revert hc
      simp only [successorCodes, selectionCodes]
      (repeat' split) <;> simp <;> omega
    | stop =>
      revert hc
      simp only [successorCodes, selectionCodes]
      (repeat' split) <;> simp <;> omega

/-- The entry walked on to has a space of the vector, or data memory. -/
theorem walkEntry_space (iov : List Segment) (k : Nat) (h : (walkEntry iov k).space = .hdr) :
    ∃ e ∈ iov, e.space = .hdr := by
  have h : (iovAt iov k).space = .hdr := by
    rcases walkEntry_cases iov k with ⟨_, hc⟩ | ⟨_, hc⟩ <;> rw [hc] at h <;> exact h
  unfold iovAt at h
  by_cases hk : k < iov.length
  · exact ⟨iov[k], List.getElem_mem hk, by simpa [List.getD, hk] using h⟩
  · simp [List.getD, Nat.not_lt.mp hk, Segment.sentinel] at h

/-- The event of a STATUS is an event. -/
theorem decodeStatus_format (p : Params) (st : Byte) : (decodeStatus p st).format = .status := by
  unfold decodeStatus
  generalize decodeEvent p (statusCode st) = e
  cases e <;> try rfl
  unfold Event.instr
  (repeat' split) <;> rfl

/-- A byte stored in data memory leaves the header store as it was. -/
theorem storeByte_headers (h : s.curSpace = .mem) :
    (storeByte s).hdr0 = s.hdr0 ∧ (storeByte s).hdr1 = s.hdr1 := by
  simp [segWrite, h]

/-- The event step keeps it, and leaves the header store as it was. -/
theorem exec_event_headerQuiet (h : HeaderQuiet s) (hi : flagIntf s.flags = true)
    (hx : exec (fetchEvent s) (enterHandler s) = .next u) :
    HeaderQuiet u ∧ u.hdr0 = s.hdr0 ∧ u.hdr1 = s.hdr1 := by
  have codes := decodeStatus_codes s.params h.defaultMap s.status
  have answered : fetchEvent s ∈ [Instr.evCrDataAck, .evCrDataNack, .evTrDataAck, .evTrGcallDataAck,
      .evTtDataAck, .evTtDataNack, .evTtLastData] → s.curSpace = .mem := fun hm => by
    obtain ⟨e, he, ha⟩ := h.pending hi (codes.1 hm)
    exact h.answer e he ha
  have quiet : HeaderQuiet (enterHandler s) := h.congr rfl rfl rfl rfl rfl rfl id
  have issued (c : Command) (hc : isAnswer c → s.curSpace = .mem) :
      HeaderQuiet (Machine.issue c (enterHandler s)) := .issue c h.defaultMap h.write hc
  -- an issue from a walk over data memory
  have inMem {v : State} (c : Command) (hp : v.params = s.params) (hv : v.curSpace = .mem)
      (hio : v.iov = s.iov) (had : v.address = s.address) : HeaderQuiet (Machine.issue c v) :=
    .issue c (hp ▸ h.defaultMap)
      (fun hw => by rw [had]; exact h.write (hw.elim (fun e => by simp [hv] at e) (fun e => .inr (hio ▸ e))))
      fun _ => hv
  generalize hf : fetchEvent s = i at hx answered
  have hfmt : i.format = .status := hf ▸ decodeStatus_format _ _
  rcases exec_event i _ u hfmt hx with ⟨_, rfl⟩ | ⟨_, rfl⟩ | ⟨_, hx⟩ | ⟨_, k, rfl⟩ | ⟨rfl, rfl⟩ |
    ⟨rfl, hx⟩ | ⟨rfl, hx⟩ | ⟨_, hx⟩ | ⟨rfl, hx⟩ | ⟨hm, rfl⟩ | ⟨_, rfl⟩ | ⟨hm, hx⟩ | ⟨_, rfl⟩
  · exact ⟨.issue .data h.defaultMap h.write (by simp [isAnswer]), rfl, rfl⟩
  · exact ⟨(issued .idle (by simp [isAnswer])).congr rfl rfl rfl rfl rfl rfl id, rfl, rfl⟩
  · generalize hv : ctAdvance (enterHandler s) = v at hx
    obtain ⟨hp, hw, h0, h1⟩ : v.params = s.params ∧
        (v.curSpace = .hdr ∨ (∃ e ∈ v.iov, e.space = .hdr) → directionBit v.address = false) ∧
        v.hdr0 = s.hdr0 ∧ v.hdr1 = s.hdr1 := by
      rcases ctAdvance_cases (enterHandler s) with ⟨_, _, hc⟩ | ⟨_, hc⟩ <;> rw [hc] at hv <;> subst hv
      · exact ⟨rfl, fun hh => h.write (.inr (hh.elim (walkEntry_space _ _) id)), rfl, rfl⟩
      · exact ⟨rfl, h.write, rfl, rfl⟩
    rcases ctSendOrStop_next _ _ hx with ⟨_, _, rfl⟩ | ⟨_, rfl⟩
    · exact ⟨(HeaderQuiet.issue (s := loadByte v) .data (hp ▸ h.defaultMap) hw (by simp [isAnswer])).congr
        rfl rfl rfl rfl rfl rfl id, h0, h1⟩
    · exact ⟨(HeaderQuiet.issue .stop (hp ▸ h.defaultMap) hw (by simp [isAnswer])).congr
        rfl rfl rfl rfl rfl rfl id, h0, h1⟩
  · exact ⟨(issued .stop (by simp [isAnswer])).congr rfl rfl rfl rfl rfl rfl id, rfl, rfl⟩
  · have hm : s.curSpace = .mem := by
      by_contra hc
      have hc : s.curSpace = .hdr := by cases hs : s.curSpace <;> simp_all
      have := h.write (.inl hc)
      rw [h.read hi (codes.2 hf)] at this
      cases this
    rcases crAckDecide_cases (enterHandler s) with ⟨_, hc⟩ | ⟨_, hc⟩ <;> rw [hc] <;>
      exact ⟨issued _ fun _ => hm, rfl, rfl⟩
  · have hm := answered (by simp)
    rcases crStore_next _ _ _ hx with ⟨_, _, rfl⟩ | ⟨_, rfl⟩
    · rcases crAckDecide_cases (storeByte (enterHandler s)) with ⟨_, hc⟩ | ⟨_, hc⟩ <;> rw [hc] <;>
        exact ⟨inMem _ (by simp) (by simpa using hm) (by simp) (by simp), storeByte_headers hm⟩
    · exact ⟨quiet.congr rfl rfl rfl rfl rfl rfl id, rfl, rfl⟩
  · have hm := answered (by simp)
    rcases crStore_next _ _ _ hx with ⟨_, _, rfl⟩ | ⟨_, rfl⟩
    · exact ⟨(inMem (v := storeByte (enterHandler s)) .stop (by simp) (by simpa using hm) (by simp) (by simp)).congr
        rfl rfl rfl rfl rfl rfl id, storeByte_headers hm⟩
    · exact ⟨quiet.congr rfl rfl rfl rfl rfl rfl id, rfl, rfl⟩
  · rcases ttSend_next _ _ hx with ⟨_, _, rfl⟩ | ⟨_, rfl⟩ <;>
      exact ⟨inMem _ rfl rfl rfl rfl, rfl, rfl⟩
  · have hm := answered (by simp)
    rcases ttSend_next _ _ hx with ⟨_, _, rfl⟩ | ⟨_, rfl⟩ <;>
      exact ⟨inMem _ rfl hm rfl rfl, rfl, rfl⟩
  · have hm := answered (by simp at hm ⊢; tauto)
    exact ⟨(inMem .ack rfl hm rfl rfl).congr rfl rfl rfl rfl rfl rfl id, rfl, rfl⟩
  · exact ⟨inMem _ rfl rfl rfl rfl, rfl, rfl⟩
  · have hm := answered (by simp at hm ⊢; tauto)
    rcases trStore_next _ _ hx with ⟨_, _, rfl⟩ | ⟨_, rfl⟩
    · exact ⟨inMem _ (by simp) (by simpa using hm) (by simp) (by simp), storeByte_headers hm⟩
    · exact ⟨inMem _ rfl hm rfl rfl, rfl, rfl⟩
  · exact ⟨issued .idle (by simp [isAnswer]), rfl, rfl⟩

/-- A vector without a header of its own lies in data memory. -/
theorem requestVector_mem {p : Params} {i : Instr} {vec : List Segment} (h : requestVector p i vec)
    (hn : ¬headerRequest i) : ∀ e ∈ vec, e.space = .mem := by
  rcases h with ⟨_, hv⟩ | ⟨_, _, _, _, rfl, hv⟩ | ⟨_, _, _, _, rfl, _⟩ | ⟨_, _, _, _, rfl, _⟩
  · exact fun e he => ((vecContract_iff _ _).mp hv).1 e he |>.1
  · exact fun e he => ((vecContract_iff _ _).mp hv).1 e he |>.1
  · exact absurd trivial hn
  · exact absurd trivial hn

/-- An accepted request over data memory, or over a header on the way out, keeps it. -/
theorem accept_headerQuiet (ab : Byte) (vec : List Segment) (hm : s.params.statusMap = Config.statusMap)
    (h : directionBit ab = false ∨ ∀ e ∈ vec, e.space = .mem) : HeaderQuiet (accept ab vec s) := by
  refine .issue .start hm (fun hw => ?_) (by simp [isAnswer])
  refine h.resolve_right fun hv => ?_
  have fill : ∀ e ∈ fillVec s.params vec, e.space = .mem := fun e he => by
    rcases List.mem_append.mp he with he | he
    · exact hv e he
    · rw [List.eq_of_mem_replicate he]; rfl
  have : ∃ e ∈ fillVec s.params vec, e.space = .hdr := hw.elim
    (fun hc => walkEntry_space (fillVec s.params vec) 0 (by simpa [walkEntry, pastSentinel] using hc)) id
  obtain ⟨e, he, hc⟩ := this
  rw [fill e he] at hc
  cases hc

/-- A host operation keeps it, and only an accepted write with a header changes the header store. -/
theorem exec_hostOp_headerQuiet {i : Instr} (hf : i.format = .hostOp) (h : HeaderQuiet s)
    (hx : exec i s = .next u) :
    HeaderQuiet u ∧ ((u.hdr0 = s.hdr0 ∧ u.hdr1 = s.hdr1) ∨
      (headerRequest i ∧ u.hostLog = s.hostLog ++ [.result true])) := by
  rcases exec_hostOp i s u hf hx with ⟨rfl, _⟩ | ⟨_, rfl, _⟩ | ⟨_, rfl⟩ | ⟨n, a, _, _, rfl⟩ | ⟨_, _, rfl⟩ |
    ⟨_, _, ab, vec, h0, h1, hv, hh, rfl⟩ | ⟨_, _, _, _, rfl⟩ | ⟨_, _, _, _, rfl⟩ | ⟨_, _, rfl⟩
  case inr.inr.inr.inl =>
    rcases configure_cases { s with notifyTarget := n, ownAddress := a.setWidth 7 } a with
      ⟨_, hc⟩ | ⟨_, hc⟩ <;> rw [hc] <;>
      exact ⟨(HeaderQuiet.issue (s := s) .idle h.defaultMap h.write (by simp [isAnswer])).congr
        rfl rfl rfl rfl rfl rfl id, .inl ⟨rfl, rfl⟩⟩
  case inr.inr.inr.inr.inl =>
    exact ⟨h.congr rfl rfl rfl rfl rfl rfl (by simp), .inl ⟨rfl, rfl⟩⟩
  case inr.inr.inr.inr.inr.inl =>
    rcases hh with ⟨hr, hh⟩ | ⟨hr, hd⟩
    · exact ⟨(accept_headerQuiet ab vec h.defaultMap (.inr (requestVector_mem hv hr))).congr
        rfl rfl rfl rfl rfl rfl id, .inl hh⟩
    · exact ⟨(accept_headerQuiet ab vec h.defaultMap (.inl hd)).congr
        rfl rfl rfl rfl rfl rfl id, .inr ⟨hr, rfl⟩⟩
  all_goals exact ⟨h.congr rfl rfl rfl rfl rfl rfl id, .inl ⟨rfl, rfl⟩⟩

/-- The code of a STATUS that was written as its code. -/
theorem statusCode_append (c : BitVec 5) : statusCode (c ++ (0 : BitVec 3)) = c := by
  revert c
  decide

/-- What the host fetches is a host operation. -/
theorem fetchHostOp_format {i : Instr} {rest : List Byte} (h : fetchHostOp s = .ok (i, rest)) :
    i.format = .hostOp := by
  simp only [fetchHostOp, decode] at h
  generalize s.port = bs at h
  cases bs with
  | nil => cases h
  | cons op bs =>
    unfold decodeHostOp at h
    simp only [decodeBegin, decodeRequest, decodeTransfer, decodeHeaderTransfer, decodeAwait,
      decodeSlot] at h
    (repeat' split at h) <;> cases h <;> rfl

/-- Every step keeps it, where a raised event is one of R82's table and no mock drives CMD, and only an
accepted write with a header changes the header store. `v` is the state in which the turn is taken. -/
theorem step_headerQuiet (h : HeaderQuiet s) (hx : step s = .next u)
    (hb : ∀ st, Raises s st →
      (statusCode st).toNat = 0 ∨ (statusCode st).toNat ∈ successorCodes s s.busLog.reverse)
    (hm : ∀ c, turnOf s ≠ .mockCommand c) :
    HeaderQuiet u ∧ ((u.hdr0 = s.hdr0 ∧ u.hdr1 = s.hdr1) ∨
      (turnOf s = .agent .host ∧ u.hostLog = s.hostLog ++ [.result true] ∧
        ∃ i rest, fetchHostOp s = .ok (i, rest) ∧ headerRequest i)) := by
  obtain ⟨_, v, hv, hc⟩ := step_cases s u hx
  obtain ⟨ts, n, rfl⟩ : ∃ ts n, v = { s with turns := ts, tick := n } := by
    subst hv
    unfold nextTurn
    split <;> exact ⟨_, _, rfl⟩
  have q : HeaderQuiet { s with turns := ts, tick := n } := h.congr rfl rfl rfl rfl rfl rfl id
  rcases hc with ⟨_, _, _, rfl⟩ | ⟨_, _, hi, hx⟩ | ⟨k, _, _, _, rfl⟩ | ⟨i, rest, ht, _, hf, _, hx⟩ |
    ⟨_, _, _, _, _, _, _, rfl⟩ | ⟨_, _, _, _, _, _, rfl⟩ | ⟨_, _, _, _, _, _, rfl⟩ |
    ⟨st, d, ht, he, hi, rfl⟩ | ⟨_, _, rfl⟩ | ⟨c, _, ht, _, _⟩
  · exact ⟨q, .inl ⟨rfl, rfl⟩⟩
  · have hi : flagIntf s.flags = true := by simp [irq] at hi; tauto
    obtain ⟨hq, hh⟩ := exec_event_headerQuiet q hi hx
    exact ⟨hq, .inl hh⟩
  · rcases resume_cases { s with turns := ts, tick := n } k with
      ⟨_, hc⟩ | ⟨_, hc⟩ | ⟨_, _, hc⟩ | ⟨_, _, _, hc⟩ | ⟨_, _, _, hc⟩ <;> rw [hc] <;>
      exact ⟨q.congr rfl rfl rfl rfl rfl rfl id, .inl ⟨rfl, rfl⟩⟩
  · obtain ⟨hq, hh⟩ := exec_hostOp_headerQuiet (fetchHostOp_format hf)
      (q.congr (u := { s with turns := ts, tick := n, port := rest, awaiting := false })
        rfl rfl rfl rfl rfl rfl id) hx
    exact ⟨hq, hh.imp id fun hh => ⟨ht, hh.2, i, rest, hf, hh.1⟩⟩
  · exact ⟨q.congr rfl rfl rfl rfl rfl rfl id, .inl ⟨rfl, rfl⟩⟩
  · exact ⟨q.congr rfl rfl rfl rfl rfl rfl id, .inl ⟨rfl, rfl⟩⟩
  · exact ⟨q.congr rfl rfl rfl rfl rfl rfl id, .inl ⟨rfl, rfl⟩⟩
  · have table := hb st ⟨d, ht, by simp_all [enabled]⟩
    refine ⟨⟨h.defaultMap, h.write, h.answer, fun _ hc => ?_, fun _ hc => ?_⟩, .inl ⟨rfl, rfl⟩⟩ <;>
      simp only [raiseEvent_status, statusCode_append] at hc
    · exact (successorCodes_answer s _ (table.resolve_left fun h0 => by simp [h0] at hc)).1 hc
    · exact (successorCodes_answer s _ (table.resolve_left fun h0 => by simp [h0] at hc)).2 hc
  · exact ⟨q.congr rfl rfl rfl rfl rfl rfl (by simp), .inl ⟨rfl, rfl⟩⟩
  · exact absurd ht (hm c)

/-- Along a run on a conforming bus that no mock drives, the header store is written only by the header
variants of `write_request`, and only when the request is accepted (spec/10_state.md R34); the sequencer
never writes it (spec/60_exceptions.md R153). So R101's write to it needs a bus that does not conform. -/
theorem conforming_run_header (run : Nat → State) (h0 : HeaderQuiet (run 0)) (hr : IsRun run)
    (hb : ConformingBus run) (hm : ∀ k c, turnOf (run k) ≠ .mockCommand c) (k : Nat) :
    ((run (k + 1)).hdr0 = (run k).hdr0 ∧ (run (k + 1)).hdr1 = (run k).hdr1) ∨
      (turnOf (run k) = .agent .host ∧
        (run (k + 1)).hostLog = (run k).hostLog ++ [.result true] ∧
        ∃ i rest, fetchHostOp (run k) = .ok (i, rest) ∧ headerRequest i) := by
  have quiet : ∀ j, HeaderQuiet (run j) := by
    intro j
    induction j with
    | zero => exact h0
    | succ j ih => exact (step_headerQuiet ih (hr j) (hb j) (hm j)).1
  exact (step_headerQuiet (quiet k) (hr k) (hb k) (hm k)).2

end Sys2Proof.Machine
end

