-- ==== Sys2Proof/Laws/Bus.lean ====
section
/-!
SUPPORT. What a conforming bus may raise, for claims that take one of its premises.
-/

namespace Sys2Proof.Machine

variable (s : State)

/-- The filter is off while TADDR is 0x00, which a target-receive stop leaves
(spec/43_sequencer_target.md R120). -/
theorem filterOn_taddr_zero (h : s.taddr = 0x00) : filterOn s = false := by
  simp [filterOn, h]

/-- The filter is off in the wait of a target-receive stop. -/
theorem filterOn_trDone (h : s.phase = .waitStop .kTrDone) : filterOn s = false := by
  simp [filterOn, h]

/-- General call is off wherever TADDR.GCE is written 0, which the invariant says is everywhere
(spec/10_state.md R22). -/
theorem gce_clear (h : RegistersOk s) : s.taddr.getLsbD 0 = false := by
  have h1 := congrArg (fun b : Byte => b.getLsbD 0) h.2.1
  simpa using h1

/-- On a filtering bus nothing selects this node as a target while its filter is off and general call is
(spec/70_reset_and_hazards.md R163, R160). -/
theorem filteringBus_filter_off (run : Nat → State) (hb : FilteringBus run) (k : Nat) (st : Byte)
    (hr : Raises (run k) st) (hf : filterOn (run k) = false)
    (hg : (run k).taddr.getLsbD 0 = false) :
    (statusCode st).toNat ∉ [12, 13, 14, 15, 21, 22] := by
  obtain ⟨h1, h2, _⟩ := hb.2 k st hr
  rw [hf] at h1
  rw [hg] at h2
  simp only [List.mem_cons, List.not_mem_nil, or_false] at h1 h2 ⊢
  simp only [Bool.false_eq_true] at h1 h2
  tauto

/-- A filtering bus never raises a general call, 0x70 or 0x78, while the block keeps GCE at 0
(spec/43_sequencer_target.md R116, R117). -/
theorem filteringBus_no_general_call (run : Nat → State) (hb : FilteringBus run) (k : Nat) (st : Byte)
    (hr : Raises (run k) st) (hg : RegistersOk (run k)) : (statusCode st).toNat ∉ [14, 15] := by
  intro hc
  have := (hb.2 k st hr).2.1 hc
  rw [gce_clear _ hg] at this
  cases this

/-- Where only a selection may come, the table lists the codes of one. -/
theorem successorCodes_awaitsSelection (log : List (Command × Byte))
    (h : awaitsSelection s log = true) : successorCodes s log = selectionCodes s := by
  cases log with
  | nil => rfl
  | cons e log =>
    obtain ⟨c, d⟩ := e
    cases c with
    | idle => rfl
    | stop => rfl
    | start => cases h
    | data => cases h
    | nack => cases h
    | ack =>
      simp only [awaitsSelection] at h
      have hr : isControllerReceive (decodeEvent s.params s.lastEvent) = false := by
        revert h
        generalize decodeEvent s.params s.lastEvent = e
        cases e <;> decide
      simp [successorCodes, h, hr]

/-- On a filtering bus no event follows IDLE, STOP or the end of a target-transmit unless a controller
addresses the node (spec/40_bus_engine.md R82, spec/70_reset_and_hazards.md R167). -/
theorem filteringBus_selection_only (run : Nat → State) (hb : FilteringBus run) (k : Nat) (st : Byte)
    (hr : Raises (run k) st) (ha : awaitsSelection (run k) (run k).busLog.reverse = true) :
    (statusCode st).toNat ∈ selectionCodes (run k) := by
  have h := (hb.1 k st hr).resolve_left ((hb.2 k st hr).2.2 ha)
  rwa [successorCodes_awaitsSelection _ _ ha] at h

/-- A host operation raises no event. -/
theorem exec_hostOp_intf {s u : State} {i : Instr} (hf : i.format = .hostOp) (h : exec i s = .next u)
    (h0 : flagIntf s.flags = false) : flagIntf u.flags = false := by
  rcases exec_hostOp i s u hf h with ⟨rfl, _⟩ | ⟨_, rfl, _⟩ | ⟨_, rfl⟩ | ⟨_, _, _, _, rfl⟩ | ⟨_, _, rfl⟩ |
    ⟨_, _, _, _, _, _, _, _, rfl⟩ | ⟨_, _, _, _, rfl⟩ | ⟨_, _, _, _, rfl⟩ | ⟨_, _, rfl⟩
  case inr.inr.inr.inl => simp
  case inr.inr.inr.inr.inl => simp
  case inr.inr.inr.inr.inr.inl => simp [accept]
  all_goals exact h0

/-- Where no event is pending as a request is called, the step of the call drops none: INTF is clear
before it and after it (spec/70_reset_and_hazards.md R167). -/
theorem noEventPending_none_dropped (run : Nat → State) (hr : IsRun run)
    (hn : NoEventPendingAtRequest run) (k : Nat) (ht : turnOf (run k) = .agent .host)
    (hq : requestNext (run k) = true) :
    flagIntf (run k).flags = false ∧ flagIntf (run (k + 1)).flags = false := by
  have h0 := hn k ht hq
  refine ⟨h0, ?_⟩
  have turn : (nextTurn (run k)).1 = .agent .host := ht
  obtain ⟨_, v, hv, hc⟩ := step_cases _ _ (hr k)
  have hv0 : flagIntf v.flags = false := by
    rcases nextTurn_cases (run k) with ⟨_, _, _, e⟩ | ⟨_, e⟩ <;> rw [hv, e] <;> exact h0
  simp only [turn, Turn.agent.injEq, reduceCtorEq, false_and, exists_false, false_or, or_false,
    exists_and_left, true_and] at hc
  rcases hc with ⟨_, hc⟩ | ⟨_, i, rest, hd, _, hx⟩ | ⟨_, _, _, _, _, hc⟩
  · simp_all
  · exact exec_hostOp_intf (fetchHostOp_format hd) hx hv0
  · simp_all

end Sys2Proof.Machine
end

