-- ==== Sys2Proof/Laws/Decode.lean ====
section
/-!
SUPPORT. The operand laws of the host port, for an operand, a buffer, a vector entry and a vector: what
was put is taken back, what is taken is inside its widths, and what is outside them is refused.
-/

namespace Sys2Proof

/-- The `k` bytes of `v` are taken back as `v mod 256^k` after the digits so far. -/
theorem takeBE_putBE (k acc v : Nat) (rest : List Byte) :
    takeBE k acc (putBE k v ++ rest) = .ok (acc * 256 ^ k + v % 256 ^ k, rest) := by
  induction k generalizing acc with
  | zero => simp [takeBE, putBE, Nat.mod_one]
  | succ k ih =>
    simp only [putBE, List.cons_append, takeBE, ih]
    congr 2
    have h1 : v % 256 ^ (k + 1) = 256 ^ k * (v / 256 ^ k % 256) + v % 256 ^ k := by
      rw [pow_succ, Nat.mod_mul]; ring
    rw [BitVec.toNat_ofNat, h1, pow_succ]
    ring_nf

/-- A width fits the whole bytes it takes. -/
theorem width_le_bytes (w : Nat) : 2 ^ w ≤ 256 ^ bytesFor w := by
  have : (256 : Nat) = 2 ^ 8 := by norm_num
  rw [this, ← pow_mul]
  exact Nat.pow_le_pow_right (by norm_num) (by unfold bytesFor; omega)

/-- An operand inside its width is taken back. -/
theorem takeOperand_putOperand (w v : Nat) (rest : List Byte) (h : v < 2 ^ w) :
    takeOperand w (putOperand w v ++ rest) = .ok (v, rest) := by
  have hb : v % 256 ^ bytesFor w = v := Nat.mod_eq_of_lt (Nat.lt_of_lt_of_le h (width_le_bytes w))
  simp [takeOperand, putOperand, takeBE_putBE, hb, inWidth, h]

/-- What is taken as an operand is inside its width. -/
theorem takeOperand_inWidth (w v : Nat) (bs rest : List Byte)
    (h : takeOperand w bs = .ok (v, rest)) : v < 2 ^ w := by
  unfold takeOperand at h
  split at h
  · simp at h
  · split at h
    · next hw => cases h; simpa [inWidth] using hw
    · simp at h

/-- Bytes that spell a number outside the width are refused. -/
theorem takeOperand_outside (w v : Nat) (rest : List Byte) (h : 2 ^ w ≤ v)
    (hb : v < 256 ^ bytesFor w) :
    takeOperand w (putOperand w v ++ rest) = .error .operandRange := by
  have : ¬ v < 2 ^ w := by omega
  simp [takeOperand, putOperand, takeBE_putBE, Nat.mod_eq_of_lt hb, inWidth, this]

/-- Whatever bytes an operand of width `w` was put as, it is taken from them or refused by its width,
and the rest follows. -/
theorem takeOperand_put_cases (w v : Nat) (rest : List Byte) :
    (∃ x, takeOperand w (putOperand w v ++ rest) = .ok (x, rest)) ∨
      takeOperand w (putOperand w v ++ rest) = .error .operandRange := by
  simp only [takeOperand, putOperand, takeBE_putBE]
  split
  · exact .inl ⟨_, rfl⟩
  · exact .inr rfl

/-- A buffer inside its widths is taken back. -/
theorem takeBuf_putBuf (p : Params) (buf size : Nat) (rest : List Byte) (hb : buf < 2 ^ p.aw)
    (hs : size < 2 ^ p.lw) : takeBuf p (putBuf p buf size ++ rest) = .ok ((buf, size), rest) := by
  simp [takeBuf, putBuf, List.append_assoc, takeOperand_putOperand _ _ _ hb,
    takeOperand_putOperand _ _ _ hs]

/-- What is taken as a buffer is inside its widths. -/
theorem takeBuf_inWidth (p : Params) (bs rest : List Byte) (buf size : Nat)
    (h : takeBuf p bs = .ok ((buf, size), rest)) : buf < 2 ^ p.aw ∧ size < 2 ^ p.lw := by
  unfold takeBuf at h
  split at h
  · cases h
  · next hb =>
    split at h
    · cases h
    · next hs => cases h; exact ⟨takeOperand_inWidth _ _ _ _ hb, takeOperand_inWidth _ _ _ _ hs⟩

/-- A vector entry inside its widths is taken back. -/
theorem takeSegment_putSegment (p : Params) (e : Segment) (rest : List Byte)
    (h : e.wellFormed p = true) : takeSegment p (putSegment p e ++ rest) = .ok (e, rest) := by
  simp only [Segment.wellFormed, bufWellFormed, inWidth, Bool.and_eq_true, decide_eq_true_eq] at h
  have hs : e.space.code < 2 ^ 8 := by cases e.space <;> decide
  have hc : spaceOf e.space.code = some e.space := by cases e.space <;> rfl
  simp [takeSegment, putSegment, List.append_assoc, takeOperand_putOperand _ _ _ hs, hc,
    takeBuf_putBuf _ _ _ _ h.1 h.2]

/-- What is taken as a vector entry is inside its widths. -/
theorem takeSegment_wellFormed (p : Params) (bs rest : List Byte) (e : Segment)
    (h : takeSegment p bs = .ok (e, rest)) : e.wellFormed p = true := by
  unfold takeSegment at h
  split at h
  · cases h
  · split at h
    · cases h
    · split at h
      · cases h
      · next hb =>
        cases h
        simp [Segment.wellFormed, bufWellFormed, inWidth, takeBuf_inWidth _ _ _ _ _ hb]

/-- Entries that another one follows are taken one by one. -/
theorem takeVector_putMore (p : Params) (es : List Segment) (k : Nat) (bs : List Byte)
    (h : ∀ e ∈ es, e.wellFormed p = true) :
    takeVector p (es.length + k) (es.flatMap (putMore p) ++ bs) =
      match takeVector p k bs with
      | .error e => .error e
      | .ok (fs, rest) => .ok (es ++ fs, rest) := by
  induction es with
  | nil => simp; split <;> simp_all
  | cons e es ih =>
    have one : ∀ bs : List Byte, takeOperand 8 ((0x01 : Byte) :: bs) = .ok (1, bs) := fun _ => rfl
    have more : ∀ x, putMore p e ++ x = putSegment p e ++ (0x01 : Byte) :: x := by simp [putMore]
    rw [List.length_cons, Nat.add_right_comm, List.flatMap_cons, List.append_assoc, more]
    simp only [takeVector, takeSegment_putSegment p e _ (h e (by simp)), one,
      ih (fun x hx => h x (by simp [hx]))]
    cases takeVector p k bs <;> rfl

/-- A vector inside its widths and its length is taken back. -/
theorem takeVector_putVector (p : Params) (es : List Segment) (k : Nat) (rest : List Byte)
    (hne : es ≠ []) (hk : es.length ≤ k) (h : ∀ e ∈ es, e.wellFormed p = true) :
    takeVector p k (putVector p es ++ rest) = .ok (es, rest) := by
  induction es generalizing k with
  | nil => exact absurd rfl hne
  | cons e es ih =>
    obtain ⟨k, rfl⟩ : ∃ j, k = j + 1 := ⟨k - 1, by simp only [List.length_cons] at hk; omega⟩
    have he := h e (by simp)
    have zero : ∀ bs : List Byte, takeOperand 8 ((0x00 : Byte) :: bs) = .ok (0, bs) := fun _ => rfl
    have one : ∀ bs : List Byte, takeOperand 8 ((0x01 : Byte) :: bs) = .ok (1, bs) := fun _ => rfl
    cases es with
    | nil =>
      simp only [putVector, List.append_assoc, takeVector, takeSegment_putSegment p e _ he,
        List.cons_append, List.nil_append, zero]
    | cons f fs =>
      have := ih k (by simp) (by simp only [List.length_cons] at hk ⊢; omega)
        (fun x hx => h x (by simp [hx]))
      simp only [putVector, putMore, List.append_assoc, takeVector, takeSegment_putSegment p e _ he,
        List.cons_append, List.nil_append, one, this]

/-- What is taken as a vector has 1 to `k` entries, each inside its widths. -/
theorem takeVector_wellFormed (p : Params) (k : Nat) (bs rest : List Byte) (es : List Segment)
    (h : takeVector p k bs = .ok (es, rest)) :
    1 ≤ es.length ∧ es.length ≤ k ∧ ∀ e ∈ es, e.wellFormed p = true := by
  induction k generalizing bs es rest with
  | zero => cases h
  | succ k ih =>
    unfold takeVector at h
    split at h
    · cases h
    · next he =>
      have he := takeSegment_wellFormed _ _ _ _ he
      split at h
      · cases h
      · cases h
        exact ⟨by simp, by simp, by simpa using he⟩
      · split at h
        · cases h
        · next hv =>
          cases h
          obtain ⟨-, h2, h3⟩ := ih _ _ _ hv
          exact ⟨by simp, by simpa using h2, by simpa using ⟨he, h3⟩⟩
      · cases h

end Sys2Proof
end

