-- ==== Sys2Proof/Laws/PerInstr.lean ====
section
/-!
SUPPORT. The family `FirstByte`: how each instruction's encoding begins, one lemma per constructor. A
command or an event is at most one byte and needs no operand check; a host operation begins with its
opcode, which is in 1 to 11 (spec/30_encoding.md R57, R67, R68).
-/

namespace Sys2Proof.Laws.FirstByte

/-- The family's statement about one instruction, for every setting of the parameters. -/
def Statement (i : Instr) : Prop :=
  ∀ p : Params,
    (i.format ≠ .hostOp → i.wellFormed p = true ∧ (encode p i).length ≤ 1) ∧
    (i.format = .hostOp → ∃ op operands, encode p i = op :: operands ∧ 1 ≤ op.toNat ∧ op.toNat ≤ 11)

/-- A command or event of at most one byte. -/
theorem of_short (i : Instr) (hf : i.format ≠ .hostOp) (hw : ∀ p, i.wellFormed p = true)
    (hl : ∀ p, (encode p i).length ≤ 1) : Statement i :=
  fun p => ⟨fun _ => ⟨hw p, hl p⟩, fun h => absurd h hf⟩

/-- A host operation with its opcode. -/
theorem of_opcode (i : Instr) (op : Byte) (operands : Params → List Byte) (hf : i.format = .hostOp)
    (he : ∀ p, encode p i = op :: operands p) (hlo : 1 ≤ op.toNat) (hhi : op.toNat ≤ 11) :
    Statement i :=
  fun p => ⟨fun h => absurd hf h, fun _ => ⟨op, operands p, he p, hlo, hhi⟩⟩

theorem cmdIdle : Statement .cmdIdle := of_short _ (by decide) (fun _ => rfl) (fun _ => by simp [encode])
theorem cmdStart : Statement .cmdStart := of_short _ (by decide) (fun _ => rfl) (fun _ => by simp [encode])
theorem cmdStop : Statement .cmdStop := of_short _ (by decide) (fun _ => rfl) (fun _ => by simp [encode])
theorem cmdData : Statement .cmdData := of_short _ (by decide) (fun _ => rfl) (fun _ => by simp [encode])
theorem cmdAck : Statement .cmdAck := of_short _ (by decide) (fun _ => rfl) (fun _ => by simp [encode])
theorem cmdNack : Statement .cmdNack := of_short _ (by decide) (fun _ => rfl) (fun _ => by simp [encode])
theorem evBusError : Statement .evBusError := of_short _ (by decide) (fun _ => rfl) (fun _ => by simp [encode])
theorem evStart : Statement .evStart := of_short _ (by decide) (fun _ => rfl) (fun _ => by simp [encode])
theorem evRepStart : Statement .evRepStart := of_short _ (by decide) (fun _ => rfl) (fun _ => by simp [encode])
theorem evCtAddrAck : Statement .evCtAddrAck := of_short _ (by decide) (fun _ => rfl) (fun _ => by simp [encode])
theorem evCtAddrNack : Statement .evCtAddrNack := of_short _ (by decide) (fun _ => rfl) (fun _ => by simp [encode])
theorem evCtDataAck : Statement .evCtDataAck := of_short _ (by decide) (fun _ => rfl) (fun _ => by simp [encode])
theorem evCtDataNack : Statement .evCtDataNack := of_short _ (by decide) (fun _ => rfl) (fun _ => by simp [encode])
theorem evArbLost : Statement .evArbLost := of_short _ (by decide) (fun _ => rfl) (fun _ => by simp [encode])
theorem evCrAddrAck : Statement .evCrAddrAck := of_short _ (by decide) (fun _ => rfl) (fun _ => by simp [encode])
theorem evCrAddrNack : Statement .evCrAddrNack := of_short _ (by decide) (fun _ => rfl) (fun _ => by simp [encode])
theorem evCrDataAck : Statement .evCrDataAck := of_short _ (by decide) (fun _ => rfl) (fun _ => by simp [encode])
theorem evCrDataNack : Statement .evCrDataNack := of_short _ (by decide) (fun _ => rfl) (fun _ => by simp [encode])
theorem evTrAddrAck : Statement .evTrAddrAck := of_short _ (by decide) (fun _ => rfl) (fun _ => by simp [encode])
theorem evTrArbLostAddrAck : Statement .evTrArbLostAddrAck := of_short _ (by decide) (fun _ => rfl) (fun _ => by simp [encode])
theorem evTrGcallAck : Statement .evTrGcallAck := of_short _ (by decide) (fun _ => rfl) (fun _ => by simp [encode])
theorem evTrArbLostGcallAck : Statement .evTrArbLostGcallAck := of_short _ (by decide) (fun _ => rfl) (fun _ => by simp [encode])
theorem evTrDataAck : Statement .evTrDataAck := of_short _ (by decide) (fun _ => rfl) (fun _ => by simp [encode])
theorem evTrDataNack : Statement .evTrDataNack := of_short _ (by decide) (fun _ => rfl) (fun _ => by simp [encode])
theorem evTrGcallDataAck : Statement .evTrGcallDataAck := of_short _ (by decide) (fun _ => rfl) (fun _ => by simp [encode])
theorem evTrGcallDataNack : Statement .evTrGcallDataNack := of_short _ (by decide) (fun _ => rfl) (fun _ => by simp [encode])
theorem evTrStop : Statement .evTrStop := of_short _ (by decide) (fun _ => rfl) (fun _ => by simp [encode])
theorem evTtAddrAck : Statement .evTtAddrAck := of_short _ (by decide) (fun _ => rfl) (fun _ => by simp [encode])
theorem evTtArbLostAddrAck : Statement .evTtArbLostAddrAck := of_short _ (by decide) (fun _ => rfl) (fun _ => by simp [encode])
theorem evTtDataAck : Statement .evTtDataAck := of_short _ (by decide) (fun _ => rfl) (fun _ => by simp [encode])
theorem evTtDataNack : Statement .evTtDataNack := of_short _ (by decide) (fun _ => rfl) (fun _ => by simp [encode])
theorem evTtLastData : Statement .evTtLastData := of_short _ (by decide) (fun _ => rfl) (fun _ => by simp [encode])
theorem evUnrecognizedD0 : Statement .evUnrecognizedD0 := of_short _ (by decide) (fun _ => rfl) (fun _ => by simp [encode])
theorem evUnrecognizedD8 : Statement .evUnrecognizedD8 := of_short _ (by decide) (fun _ => rfl) (fun _ => by simp [encode])
theorem evUnrecognizedE0 : Statement .evUnrecognizedE0 := of_short _ (by decide) (fun _ => rfl) (fun _ => by simp [encode])
theorem evUnrecognizedE8 : Statement .evUnrecognizedE8 := of_short _ (by decide) (fun _ => rfl) (fun _ => by simp [encode])
theorem evUnrecognizedF0 : Statement .evUnrecognizedF0 := of_short _ (by decide) (fun _ => rfl) (fun _ => by simp [encode])
theorem evNoInfo : Statement .evNoInfo := of_short _ (by decide) (fun _ => rfl) (fun _ => by simp [encode])
theorem evTtAddrNack : Statement .evTtAddrNack := of_short _ (by decide) (fun _ => rfl) (fun _ => by simp [encode])
theorem evTrAddrNack : Statement .evTrAddrNack := of_short _ (by decide) (fun _ => rfl) (fun _ => by simp [encode])
theorem begin (notify : Recipient) (a : Byte) : Statement (.begin notify a) :=
  of_opcode _ 1 (fun p => (encode p (.begin notify a)).tail) rfl (fun _ => rfl) (by decide) (by decide)
theorem endOp : Statement .endOp :=
  of_opcode _ 2 (fun p => (encode p .endOp).tail) rfl (fun _ => rfl) (by decide) (by decide)
theorem request (ab : Byte) (vec : List Segment) : Statement (.request ab vec) :=
  of_opcode _ 3 (fun p => (encode p (.request ab vec)).tail) rfl (fun _ => rfl) (by decide) (by decide)
theorem writeRequest (a : BitVec 7) (buf size : Nat) : Statement (.writeRequest a buf size) :=
  of_opcode _ 4 (fun p => (encode p (.writeRequest a buf size)).tail) rfl (fun _ => rfl) (by decide) (by decide)
theorem writeRequestH8 (a : BitVec 7) (h : Byte) (buf size : Nat) : Statement (.writeRequestH8 a h buf size) :=
  of_opcode _ 5 (fun p => (encode p (.writeRequestH8 a h buf size)).tail) rfl (fun _ => rfl) (by decide) (by decide)
theorem writeRequestH16 (a : BitVec 7) (h : BitVec 16) (buf size : Nat) : Statement (.writeRequestH16 a h buf size) :=
  of_opcode _ 6 (fun p => (encode p (.writeRequestH16 a h buf size)).tail) rfl (fun _ => rfl) (by decide) (by decide)
theorem readRequest (a : BitVec 7) (buf size : Nat) : Statement (.readRequest a buf size) :=
  of_opcode _ 7 (fun p => (encode p (.readRequest a buf size)).tail) rfl (fun _ => rfl) (by decide) (by decide)
theorem awaitCompleted (m : SleepMode) : Statement (.awaitCompleted m) :=
  of_opcode _ 8 (fun p => (encode p (.awaitCompleted m)).tail) rfl (fun _ => rfl) (by decide) (by decide)
theorem setWriteBuf (buf size : Nat) : Statement (.setWriteBuf buf size) :=
  of_opcode _ 9 (fun p => (encode p (.setWriteBuf buf size)).tail) rfl (fun _ => rfl) (by decide) (by decide)
theorem setReadBuf (buf size : Nat) : Statement (.setReadBuf buf size) :=
  of_opcode _ 10 (fun p => (encode p (.setReadBuf buf size)).tail) rfl (fun _ => rfl) (by decide) (by decide)
theorem dispatch : Statement .dispatch :=
  of_opcode _ 11 (fun p => (encode p .dispatch).tail) rfl (fun _ => rfl) (by decide) (by decide)

end Sys2Proof.Laws.FirstByte
end

