-- ==== Sys2Proof/Tests/Slice0.lean ====
section
/-!
SUPPORT. The model's own tests: the checks of WellFormed, words written out from the tables of
spec/30_encoding.md, single steps whose expected results stand in spec/95_test_vectors.md, and one
witness (or one per clause) that meets the hypotheses of each obligation.
-/

namespace Sys2Proof.Tests

open Sys2Proof Sys2Proof.Machine

/-! ## Helpers -/

/-- The outcome is a next state of which `f` holds. -/
def nextWith (r : Result) (f : State → Bool) : Bool :=
  match r with
  | .next t => f t
  | .fault _ => false
  | .refused _ => false

/-- Reset with the example DIV_VALUE 0x48 of spec/95_test_vectors.md. -/
def bench : State :=
  { State.reset with params := { Params.default with divValue := 0x48 } }

/-- The "controller setup" of spec/95_test_vectors.md. -/
def controller : State := { bench with ctrl := 0x07, div := 0x48, busLog := [(.idle, 0x00)] }

/-- The target setup of spec/95_test_vectors.md section 6, with recipient 1. -/
def target : State :=
  { bench with
    ctrl := 0x03, taddr := 0x42, notifyTarget := 1, ownAddress := 0x21, busLog := [(.idle, 0x00)]
    writeSlot := ⟨0x300, 2⟩, readSlot := ⟨0x310, 2⟩, mem := [(0x310, 0xB0), (0x311, 0xB1)] }

/-- A write of 2 bytes at 0x100 in flight, address byte 0x7C, after the START event. -/
def writing : State :=
  { controller with
    lifecycle := .active, role := .controllerTransmit, address := 0x7C, data := 0x7C, cmd := 0x03
    iov := [⟨.mem, 0x100, 2⟩, ⟨.mem, 0, 0⟩, ⟨.mem, 0, 0⟩], cursor := 0x100, limit := 0x102
    mem := [(0x100, 0x11), (0x101, 0x22)]
    busLog := [(.idle, 0x00), (.start, 0x00), (.data, 0x7C)] }

/-- A read of 2 bytes into 0x400 in flight, the received byte in DATA. -/
def reading : State :=
  { controller with
    lifecycle := .active, role := .controllerReceive, address := 0x41, data := 0xB0, cmd := 0x04
    iov := [⟨.mem, 0x400, 2⟩, ⟨.mem, 0, 0⟩, ⟨.mem, 0, 0⟩], cursor := 0x400, limit := 0x402
    busLog := [(.idle, 0x00), (.start, 0x00), (.data, 0x41), (.ack, 0x41)] }

/-- A receive whose walk stands at the second header byte, at either setting of the parameter that says
whether it is written (log 24). -/
def inHeader (writes : Bool) : State :=
  { reading with
    params := { reading.params with receiveWritesHdr := writes }
    hdr0 := 0x11, hdr1 := 0x22, curSpace := .hdr, cursor := 1, limit := 2 }

/-- A state with the given next turns. -/
def withTurns (ts : List Turn) (s : State) : State := { s with turns := ts }

/-- A state whose engine has raised the event of STATUS `st`. -/
def pending (st : Byte) (s : State) : State := { s with status := st, flags := 0x01 }

/-- A state in the stop wait with STOPP cleared. -/
def waited (k : Continuation) (s : State) : State := { s with phase := .waitStop k, flags := 0x00 }

/-! ## WellFormed: an ill-formed term for each check (R67, R68) -/

theorem test_wf_accepts :
    (Instr.writeRequest 0x3E 0xFFFF 0xFFFF).wellFormed Params.default = true ∧
    (Instr.request 0x7C [⟨.mem, 0, 1⟩, ⟨.hdr, 1, 2⟩, ⟨.mem, 0, 0⟩]).wellFormed Params.default = true := by
  decide

theorem test_wf_rejects_wide_buf :
    (Instr.writeRequest 0x3E 0x10000 1).wellFormed Params.default = false ∧
    (Instr.writeRequestH8 0x3E 0 0x10000 1).wellFormed Params.default = false ∧
    (Instr.writeRequestH16 0x3E 0 0x10000 1).wellFormed Params.default = false ∧
    (Instr.readRequest 0x3E 0x10000 1).wellFormed Params.default = false ∧
    (Instr.setWriteBuf 0x10000 1).wellFormed Params.default = false ∧
    (Instr.setReadBuf 0x10000 1).wellFormed Params.default = false := by decide

theorem test_wf_rejects_wide_size :
    (Instr.writeRequest 0x3E 0 0x10000).wellFormed Params.default = false ∧
    (Instr.setReadBuf 0 0x10000).wellFormed Params.default = false := by decide

theorem test_wf_rejects_empty_vector :
    (Instr.request 0x7C []).wellFormed Params.default = false := by decide

theorem test_wf_rejects_long_vector :
    (Instr.request 0x7C (List.replicate 4 Segment.sentinel)).wellFormed Params.default = false := by
  decide

theorem test_wf_rejects_wide_entry :
    (Instr.request 0x7C [⟨.mem, 0x10000, 0⟩]).wellFormed Params.default = false ∧
    (Instr.request 0x7C [⟨.mem, 0, 0⟩, ⟨.mem, 0, 0x10000⟩]).wellFormed Params.default = false := by
  decide

theorem test_wf_rejects_wide_notify :
    (Instr.begin 0xFFFF 0x21).wellFormed Params.default = true ∧
    (Instr.begin 0x10000 0x21).wellFormed Params.default = false := by decide

theorem test_wf_rejects_wide_sleep_mode :
    (Instr.awaitCompleted 0xFF).wellFormed Params.default = true ∧
    (Instr.awaitCompleted 0x100).wellFormed Params.default = false := by decide

/-! ## Words written out from the tables -/

/-- R61, all six commands; the first and last reserved values (V-CMD-9). -/
theorem test_decode_commands :
    decodeCommand 0b00000000 = .ok .cmdIdle ∧ decodeCommand 0b00000001 = .ok .cmdStart ∧
    decodeCommand 0b00000010 = .ok .cmdStop ∧ decodeCommand 0b00000011 = .ok .cmdData ∧
    decodeCommand 0b00000100 = .ok .cmdAck ∧ decodeCommand 0b00000101 = .ok .cmdNack ∧
    decodeCommand 0b00000110 = .error .reservedCmd ∧ decodeCommand 0b00000111 = .error .reservedCmd ∧
    decodeCommand 0b00001000 = .error .reservedCmd ∧
    decodeCommand 0b11111111 = .error .reservedCmd := by decide

/-- R59, the controller rows. -/
theorem test_decode_controller_status :
    decodeStatus Params.default 0b00000000 = .evBusError ∧
    decodeStatus Params.default 0b00001000 = .evStart ∧
    decodeStatus Params.default 0b00010000 = .evRepStart ∧
    decodeStatus Params.default 0b00011000 = .evCtAddrAck ∧
    decodeStatus Params.default 0b00100000 = .evCtAddrNack ∧
    decodeStatus Params.default 0b00101000 = .evCtDataAck ∧
    decodeStatus Params.default 0b00110000 = .evCtDataNack ∧
    decodeStatus Params.default 0b00111000 = .evArbLost ∧
    decodeStatus Params.default 0b01000000 = .evCrAddrAck ∧
    decodeStatus Params.default 0b01001000 = .evCrAddrNack ∧
    decodeStatus Params.default 0b01010000 = .evCrDataAck ∧
    decodeStatus Params.default 0b01011000 = .evCrDataNack := by decide

/-- R59, the target rows. -/
theorem test_decode_target_status :
    decodeStatus Params.default 0b01100000 = .evTrAddrAck ∧
    decodeStatus Params.default 0b01101000 = .evTrArbLostAddrAck ∧
    decodeStatus Params.default 0b01110000 = .evTrGcallAck ∧
    decodeStatus Params.default 0b01111000 = .evTrArbLostGcallAck ∧
    decodeStatus Params.default 0b10000000 = .evTrDataAck ∧
    decodeStatus Params.default 0b10001000 = .evTrDataNack ∧
    decodeStatus Params.default 0b10010000 = .evTrGcallDataAck ∧
    decodeStatus Params.default 0b10011000 = .evTrGcallDataNack ∧
    decodeStatus Params.default 0b10100000 = .evTrStop ∧
    decodeStatus Params.default 0b10101000 = .evTtAddrAck ∧
    decodeStatus Params.default 0b10110000 = .evTtArbLostAddrAck ∧
    decodeStatus Params.default 0b10111000 = .evTtDataAck ∧
    decodeStatus Params.default 0b11000000 = .evTtDataNack ∧
    decodeStatus Params.default 0b11001000 = .evTtLastData := by decide

/-- R59, the rows with no condition, and bits 2:0 ignored (V-DEC-2, 3, 7, 9, 12). -/
theorem test_decode_other_status :
    decodeStatus Params.default 0b11010000 = .evUnrecognizedD0 ∧
    decodeStatus Params.default 0b11011000 = .evUnrecognizedD8 ∧
    decodeStatus Params.default 0b11100000 = .evUnrecognizedE0 ∧
    decodeStatus Params.default 0b11101000 = .evUnrecognizedE8 ∧
    decodeStatus Params.default 0b11110000 = .evUnrecognizedF0 ∧
    decodeStatus Params.default 0b11111000 = .evNoInfo ∧
    decodeStatus Params.default 0x07 = .evBusError ∧ decodeStatus Params.default 0x1B = .evCtAddrAck ∧
    decodeStatus Params.default 0xCF = .evTtLastData ∧
    decodeStatus Params.default 0xD5 = .evUnrecognizedD0 ∧
    decodeStatus Params.default 0xFF = .evNoInfo := by decide

/-- R60: a map that gives codes 26 and 27 to the two target address-NACK events. -/
def otherMap : Params :=
  { Params.default with
    statusMap := Config.statusMap.take 26 ++ [.ttAddrNack, .trAddrNack] ++ Config.statusMap.drop 28 }

theorem test_decode_other_map :
    decodeStatus otherMap 0xD0 = .evTtAddrNack ∧ decodeStatus otherMap 0xD8 = .evTrAddrNack := by
  decide

/-- R67, every host opcode with its operands in order; the operand bytes are log 2's. -/
theorem test_decode_host_operations :
    decodeHostOp Params.default [0x01, 0x00, 0x07, 0x21] = .ok (.begin 7 0x21, []) ∧
    decodeHostOp Params.default [0x02, 0xAA] = .ok (.endOp, [0xAA]) ∧
    decodeHostOp Params.default [0x04, 0x3E, 0x01, 0x02, 0x00, 0x03] =
      .ok (.writeRequest 0x3E 0x102 3, []) ∧
    decodeHostOp Params.default [0x05, 0x3E, 0x5A, 0x01, 0x02, 0x00, 0x03] =
      .ok (.writeRequestH8 0x3E 0x5A 0x102 3, []) ∧
    decodeHostOp Params.default [0x06, 0x50, 0x12, 0x34, 0x02, 0x00, 0x00, 0x01] =
      .ok (.writeRequestH16 0x50 0x1234 0x200 1, []) ∧
    decodeHostOp Params.default [0x07, 0x7F, 0xFF, 0xFF, 0x00, 0x00] =
      .ok (.readRequest 0x7F 0xFFFF 0, []) := by decide

theorem test_decode_host_operations_rest :
    decodeHostOp Params.default
        [0x03, 0x7C, 0x00, 0x01, 0x00, 0x00, 0x02, 0x01, 0x01, 0x00, 0x00, 0x00, 0x00, 0x00] =
      .ok (.request 0x7C [⟨.mem, 0x100, 2⟩, ⟨.hdr, 0, 0⟩], []) ∧
    decodeHostOp Params.default [0x08, 0x05] = .ok (.awaitCompleted 5, []) ∧
    decodeHostOp Params.default [0x09, 0x03, 0x00, 0x00, 0x04] = .ok (.setWriteBuf 0x300 4, []) ∧
    decodeHostOp Params.default [0x0A, 0x03, 0x10, 0x00, 0x02] = .ok (.setReadBuf 0x310 2, []) ∧
    decodeHostOp Params.default [0x0B] = .ok (.dispatch, []) := by decide

/-- V-HOST-20 and R68: reserved opcodes, an address above 127, and bytes that end inside an operation. -/
theorem test_decode_host_refusals :
    decodeHostOp Params.default [0x00] = .error .reservedOpcode ∧
    decodeHostOp Params.default [0x0C] = .error .reservedOpcode ∧
    decodeHostOp Params.default [0xFF] = .error .reservedOpcode ∧
    decodeHostOp Params.default [0x04, 0x80, 0, 0, 0, 0] = .error .operandRange ∧
    decodeHostOp Params.default [0x04, 0x3E, 0x01] = .error .incomplete ∧
    decodeHostOp Params.default [0x03, 0x7C, 0, 0, 0, 0, 0] = .error .incomplete := by decide

/-- R68: a vector that goes on past N + 1 entries, an entry in no space, no mark after an entry. -/
theorem test_decode_vector_refusals :
    decodeHostOp Params.default
        [0x03, 0x7C, 0, 0, 0, 0, 0, 1, 0, 0, 0, 0, 0, 1, 0, 0, 0, 0, 0, 1] = .error .operandRange ∧
    decodeHostOp Params.default [0x03, 0x7C, 2, 0, 0, 0, 0, 0] = .error .operandRange ∧
    decodeHostOp Params.default [0x03, 0x7C, 0, 0, 0, 0, 0, 2] = .error .operandRange := by decide

/-- R7, R67: operands at widths that are no whole bytes, with RECIPIENT and SLEEP_MODES of 4 values:
the greatest value is read, the next one refused. -/
def narrow : Params :=
  { Params.default with aw := 12, lw := 12, countMax := 2047, recipientBits := 2, sleepBits := 2 }

theorem test_decode_other_widths :
    decodeHostOp narrow [0x01, 0x03, 0x21] = .ok (.begin 3 0x21, []) ∧
    decodeHostOp narrow [0x01, 0x04, 0x21] = .error .operandRange ∧
    decodeHostOp narrow [0x08, 0x03] = .ok (.awaitCompleted 3, []) ∧
    decodeHostOp narrow [0x08, 0x04] = .error .operandRange ∧
    decodeHostOp narrow [0x09, 0x0F, 0xFF, 0x0F, 0xFF] = .ok (.setWriteBuf 0xFFF 0xFFF, []) ∧
    decodeHostOp narrow [0x09, 0x10, 0x00, 0x00, 0x01] = .error .operandRange ∧
    decodeHostOp narrow [0x09, 0x00, 0x00, 0x10, 0x00] = .error .operandRange := by decide

/-- The encoder writes the bytes the decode tests are written from. -/
theorem test_encode :
    encode Params.default (.writeRequestH16 0x50 0x1234 0x200 1) =
      [0x06, 0x50, 0x12, 0x34, 0x02, 0x00, 0x00, 0x01] ∧
    encode Params.default (.request 0x7C [⟨.mem, 0x100, 2⟩, ⟨.mem, 0, 0⟩]) =
      [0x03, 0x7C, 0x00, 0x01, 0x00, 0x00, 0x02, 0x01, 0x00, 0x00, 0x00, 0x00, 0x00, 0x00] ∧
    encode Params.default .evTrStop = [0xA0] ∧ encode Params.default .cmdNack = [0x05] := by decide

/-! ## Commands (V-CMD-1 to V-CMD-8) -/

theorem test_cmd_idle :
    nextWith (exec .cmdIdle { bench with flags := 0x01 }) (fun t => t.cmd == 0x00 && t.flags == 0x00) ∧
    nextWith (exec .cmdIdle { bench with flags := 0x03 }) (fun t => t.flags == 0x02) := by decide

theorem test_cmd_start :
    nextWith (exec .cmdStart { bench with flags := 0x01 }) (fun t => t.cmd == 0x01 && t.flags == 0x00) := by
  decide

theorem test_cmd_stop :
    nextWith (exec .cmdStop { bench with flags := 0x01 }) (fun t => t.cmd == 0x02 && t.flags == 0x02) := by
  decide

theorem test_cmd_data :
    nextWith (exec .cmdData { bench with flags := 0x01, data := 0x7C })
      (fun t => t.cmd == 0x03 && t.flags == 0x00 && t.busLog == [(.data, 0x7C)]) ∧
    nextWith (exec .cmdData { bench with flags := 0x02 }) (fun t => t.flags == 0x02) := by decide

theorem test_cmd_ack :
    nextWith (exec .cmdAck { bench with flags := 0x01, data := 0x41 })
      (fun t => t.cmd == 0x04 && t.flags == 0x00 && t.busLog == [(.ack, 0x41)]) := by decide

theorem test_cmd_nack :
    nextWith (exec .cmdNack { bench with flags := 0x01 }) (fun t => t.cmd == 0x05 && t.flags == 0x00) := by
  decide

/-! ## Controller events -/

/-- R91, R92 and V-CT-6: the address byte goes out. -/
theorem test_ev_start :
    nextWith (exec .evStart { controller with address := 0x7C })
      (fun t => t.data == 0x7C && t.busLog == [(.idle, 0x00), (.data, 0x7C)]) ∧
    nextWith (exec .evRepStart { controller with address := 0x7D })
      (fun t => t.data == 0x7D && t.busLog == [(.idle, 0x00), (.data, 0x7D)]) := by decide

/-- V-CT-3: IDLE, ERROR, -1, no stop wait. -/
theorem test_ev_arb_lost :
    nextWith (exec .evArbLost writing)
      (fun t => t.cmd == 0x00 && decide (t.lifecycle = .error) && decide (t.transferredCount = -1) &&
        decide (t.phase = .ready) && flagStopp t.flags == false) := by decide

/-- V-SRC-1: 0x18 sends the first byte and counts it. -/
theorem test_ev_ct_addr_ack :
    nextWith (exec .evCtAddrAck writing)
      (fun t => t.data == 0x11 && t.cursor == 0x101 && decide (t.transferredCount = 1)) ∧
    nextWith (exec .evCtAddrAck { writing with cursor := 0x102 })
      (fun t => t.segmentIndex == 1 && decide (t.phase = .waitStop .kIdle)) := by decide

/-- V-SRC-7: at the end of the header the payload's first byte goes out. -/
theorem test_ev_ct_data_ack :
    nextWith (exec .evCtDataAck { writing with
        iov := [⟨.hdr, 0, 1⟩, ⟨.mem, 0x500, 1⟩, ⟨.mem, 0, 0⟩], curSpace := .hdr, cursor := 1, limit := 1
        transferredCount := 1, mem := [(0x500, 0x0C)] })
      (fun t => t.data == 0x0C && t.segmentIndex == 1 && decide (t.transferredCount = 2)) ∧
    nextWith (exec .evCtDataAck { writing with segmentIndex := 2, cursor := 0, limit := 0 })
      (fun t => t.segmentIndex == 2 && decide (t.phase = .waitStop .kIdle)) := by decide

/-- R65, D16 and V-CT-5: an entry after a sentinel is never sent, whether the vector starts with the
sentinel or an ACK comes once more after the transfer has reached it. -/
theorem test_ev_ct_ack_past_sentinel :
    nextWith (exec .evCtAddrAck { writing with
        iov := [⟨.mem, 0x100, 0⟩, ⟨.mem, 0x200, 1⟩, ⟨.mem, 0, 0⟩], limit := 0x100 })
      (fun t => t.cmd == 0x02 && decide (t.transferredCount = 0) && t.segmentIndex == 1) ∧
    nextWith (exec .evCtDataAck { writing with
        iov := [⟨.mem, 0x100, 1⟩, ⟨.mem, 0, 0⟩, ⟨.mem, 0x200, 1⟩], segmentIndex := 1
        cursor := 0, limit := 0, transferredCount := 1 })
      (fun t => t.cmd == 0x02 && decide (t.transferredCount = 1)) := by decide

/-- V-CT-2: the count keeps the NACKed byte. -/
theorem test_ev_ct_data_nack :
    nextWith (exec .evCtDataNack { writing with transferredCount := 2 })
      (fun t => t.cmd == 0x02 && decide (t.transferredCount = 2) &&
        decide (t.phase = .waitStop .kIdle)) := by decide

/-- V-SRC-2 a and b: the error continuation, the count not yet written. -/
theorem test_ev_addr_nacks :
    nextWith (exec .evCtAddrNack writing)
      (fun t => decide (t.phase = .waitStop .kError) && decide (t.transferredCount = 0)) ∧
    nextWith (exec .evCrAddrNack reading)
      (fun t => decide (t.phase = .waitStop .kError) && decide (t.lifecycle = .active)) := by decide

/-- V-SRC-6 and V-CR-1: room 2 asks ACK, room 1 asks NACK. -/
theorem test_ev_cr_addr_ack :
    nextWith (exec .evCrAddrAck reading) (fun t => t.cmd == 0x04) ∧
    nextWith (exec .evCrAddrAck { reading with limit := 0x401 }) (fun t => t.cmd == 0x05) := by decide

/-- V-CR-2: the first of two bytes is stored and NACK asked; V-CR-5: no room faults. -/
theorem test_ev_cr_data_ack :
    nextWith (exec .evCrDataAck reading)
      (fun t => t.mem == [(0x400, 0xB0)] && t.cmd == 0x05 && decide (t.transferredCount = 1)) ∧
    nextWith (exec .evCrDataAck { reading with cursor := 0x402 })
      (fun t => decide (t.fault = some .bufferOverrun) && t.mem == [] && t.cmd == 0x04) := by decide

/-- R101 writes the header byte at the cursor, R34 and R153 leave it; the rest of the event is the same. -/
theorem test_receive_in_header :
    nextWith (exec .evCrDataAck (inHeader true)) (fun t =>
      t.hdr0 == 0x11 && t.hdr1 == 0xB0 && t.cursor == 2 && t.transferredCount == 1) ∧
    nextWith (exec .evCrDataAck (inHeader false)) (fun t =>
      t.hdr0 == 0x11 && t.hdr1 == 0x22 && t.cursor == 2 && t.transferredCount == 1) := by decide

/-- V-CR-1: the final byte is stored and STOP issued; V-CR-4: a zero-length read faults. -/
theorem test_ev_cr_data_nack :
    nextWith (exec .evCrDataNack { reading with limit := 0x401 })
      (fun t => t.mem == [(0x400, 0xB0)] && t.cmd == 0x02 && decide (t.phase = .waitStop .kIdle)) ∧
    nextWith (exec .evCrDataNack { reading with limit := 0x400 })
      (fun t => decide (t.fault = some .bufferOverrun) && decide (t.transferredCount = 0)) := by decide

/-! ## Target events -/

/-- V-TT-1 and V-TT-2: the first READ byte with ACK, or 0xFF with NACK from an empty slot. -/
theorem test_ev_tt_addr_ack :
    nextWith (exec .evTtAddrAck target)
      (fun t => t.data == 0xB0 && t.cmd == 0x04 && t.cursor == 0x311 &&
        decide (t.lifecycle = .active)) ∧
    nextWith (exec .evTtAddrAck { target with readSlot := ⟨0x310, 0⟩ })
      (fun t => t.data == 0xFF && t.cmd == 0x05) := by decide

/-- V-TT-4: the abandoned request leaves count 0 and role TT. -/
theorem test_ev_tt_arb_lost :
    nextWith (exec .evTtArbLostAddrAck { target with
        lifecycle := .active, role := .controllerTransmit, transferredCount := 1 })
      (fun t => decide (t.role = .targetTransmit) && decide (t.transferredCount = 0) &&
        decide (t.lifecycle = .active) && t.data == 0xB0) := by decide

/-- V-TT-1: the second byte, then the sentinel with NACK. -/
theorem test_ev_tt_data_ack :
    nextWith (exec .evTtDataAck { target with cursor := 0x311, limit := 0x312 })
      (fun t => t.data == 0xB1 && t.cmd == 0x04 && decide (t.transferredCount = 0)) ∧
    nextWith (exec .evTtDataAck { target with cursor := 0x312, limit := 0x312 })
      (fun t => t.data == 0xFF && t.cmd == 0x05) := by decide

/-- V-TT-3 and V-TT-1: the end of a target-transmit. -/
theorem test_ev_tt_end :
    nextWith (exec .evTtDataNack { target with lifecycle := .active, data := 0xB1 })
      (fun t => t.busLog == [(.idle, 0x00), (.ack, 0xB1)] && decide (t.lifecycle = .idle)) ∧
    nextWith (exec .evTtLastData { target with lifecycle := .active, data := 0xFF })
      (fun t => t.cmd == 0x04 && t.taddr == 0x42 && decide (t.nslot.full = false)) := by decide

/-- R114 to R117: the four selections latch the WRITE slot and ask ACK. -/
theorem test_ev_tr_select :
    [Instr.evTrAddrAck, .evTrArbLostAddrAck, .evTrGcallAck, .evTrArbLostGcallAck].all (fun i =>
      nextWith (exec i { target with transferredCount := 9 })
        (fun t => t.cursor == 0x300 && t.limit == 0x302 && decide (t.transferredCount = 0) &&
          t.cmd == 0x04 && decide (t.role = .targetReceive) && decide (t.lifecycle = .active))) := by
  decide

/-- V-TR-2 and V-TR-6: a byte with room is stored and ACKed, without room discarded and NACKed. -/
theorem test_ev_tr_data_ack :
    [Instr.evTrDataAck, .evTrGcallDataAck].all (fun i =>
      nextWith (exec i { target with cursor := 0x301, limit := 0x302, data := 0xC1 })
        (fun t => t.mem == [(0x301, 0xC1), (0x310, 0xB0), (0x311, 0xB1)] && t.cmd == 0x04) &&
      nextWith (exec i { target with cursor := 0x302, limit := 0x302, data := 0xC2 })
        (fun t => t.mem == [(0x310, 0xB0), (0x311, 0xB1)] && t.cmd == 0x05)) := by decide

/-- V-SRC-5 step 5: STOP is issued, FLAGS is 0x02, nothing is posted yet. -/
theorem test_ev_tr_stop :
    nextWith (exec .evTrStop { target with lifecycle := .active, flags := 0x01 })
      (fun t => t.cmd == 0x02 && t.flags == 0x02 && decide (t.phase = .waitStop .kTrDone) &&
        decide (t.nslot.full = false) && t.taddr == 0x42) := by decide

/-- V-ERR-1, V-ERR-4, V-TR-3, V-TR-6, R125: the error path. -/
theorem test_ev_error_path :
    [Instr.evBusError, .evNoInfo, .evTrDataNack, .evTrGcallDataNack, .evTtAddrNack,
      .evTrAddrNack].all (fun i =>
      nextWith (exec i target) (fun t => t.cmd == 0x02 && decide (t.phase = .waitStop .kError) &&
        t.taddr == 0x42)) := by decide

/-- V-ERR-3: an unrecognized code issues IDLE and keeps the transaction. -/
theorem test_ev_unrecognized :
    [Instr.evUnrecognizedD0, .evUnrecognizedD8, .evUnrecognizedE0, .evUnrecognizedE8,
      .evUnrecognizedF0].all (fun i =>
      nextWith (exec i { writing with transferredCount := 1 })
        (fun t => t.cmd == 0x00 && decide (t.lifecycle = .active) &&
          decide (t.transferredCount = 1) && decide (t.phase = .ready))) := by decide

/-! ## Host operations -/

/-- V-HOST-10: the two rejections and the target setup; R128: the controller setup. -/
theorem test_begin :
    nextWith (exec (.begin Recipient.null 0x21) bench)
      (fun t => t.hostLog == [.result false] && t.ctrl == 0x00) ∧
    nextWith (exec (.begin 1 0x80) bench) (fun t => t.hostLog == [.result false] && t.taddr == 0x00) := by
  decide

theorem test_begin_accepted :
    nextWith (exec (.begin 1 0x21) bench)
      (fun t => t.hostLog == [.result true] && t.ctrl == 0x03 && t.taddr == 0x42 && t.div == 0x00 &&
        t.ownAddress == 0x21) ∧
    nextWith (exec (.begin Recipient.null 0) bench)
      (fun t => t.ctrl == 0x07 && t.div == 0x48 && t.taddr == 0x00 && t.busLog == [(.idle, 0x00)]) := by
  decide

/-- V-SRC-4 and V-HOST-12. -/
theorem test_end :
    nextWith (exec .endOp { target with flags := 0x01 })
      (fun t => t.ctrl == 0x00 && t.flags == 0x00 && t.notifyTarget == Recipient.null &&
        t.taddr == 0x42 && t.hostLog == [.none]) ∧
    nextWith (exec .endOp writing)
      (fun t => decide (t.fault = some .hostContractEndActive) && t.ctrl == 0x07 && t.hostLog == []) := by
  decide

/-- R131's example, V-HOST-4, V-HOST-5 and V-HOST-8. -/
theorem test_request :
    nextWith (exec (.request 0x7C [⟨.mem, 0x100, 3⟩, ⟨.mem, 0, 0⟩]) controller)
      (fun t => t.cursor == 0x100 && t.limit == 0x103 && decide (t.role = .controllerTransmit) &&
        t.busLog == [(.idle, 0x00), (.start, 0x00)] && t.iov.length == 3) ∧
    nextWith (exec (.request 0x7C [⟨.mem, 0x400, 0⟩, ⟨.mem, 0xFFFF, 2⟩, ⟨.mem, 0, 0⟩]) controller)
      (fun t => decide (t.fault = some .hostContractVec)) := by decide

theorem test_request_contract :
    [[⟨.mem, 0x100, 1⟩, ⟨.mem, 0x200, 1⟩, ⟨.mem, 0x300, 1⟩], [⟨.hdr, 0, 1⟩, ⟨.mem, 0, 0⟩],
      [⟨.mem, 0, 20000⟩, ⟨.mem, 20000, 12768⟩, ⟨.mem, 0, 0⟩]].all (fun v =>
      nextWith (exec (.request 0x7C v) controller)
        (fun t => decide (t.fault = some .hostContractVec) && decide (t.lifecycle = .idle) &&
          t.hostLog == [])) := by decide

/-- V-HOST-1 and V-HOST-2: false before `begin`, and while ACTIVE; V-HOST-6 and V-HOST-7: the bounds. -/
theorem test_write_request_refused :
    nextWith (exec (.writeRequest 0x3E 0x100 1) bench)
      (fun t => t.hostLog == [.result false] && t.cmd == 0x00 && t.busLog == []) ∧
    nextWith (exec (.writeRequest 0x20 0x200 1) writing)
      (fun t => t.hostLog == [.result false] && t.address == 0x7C && t.cursor == 0x100) := by decide

theorem test_write_request :
    nextWith (exec (.writeRequest 0x3E 0xFFFF 2) controller)
      (fun t => decide (t.fault = some .hostContractVec)) ∧
    nextWith (exec (.writeRequest 0x3E 0x0000 32767) controller)
      (fun t => t.hostLog == [.result true] && t.address == 0x7C && t.limit == 32767) := by decide

/-- V-SRC-7 and V-HOST-9; V-HOST-3: a rejected header is not latched. -/
theorem test_write_request_h8 :
    nextWith (exec (.writeRequestH8 0x3E 0x11 0x500 1) controller)
      (fun t => t.iov == [⟨.hdr, 0, 1⟩, ⟨.mem, 0x500, 1⟩, ⟨.mem, 0, 0⟩] && t.hdr0 == 0x11) ∧
    nextWith (exec (.writeRequestH8 0x3E 1 0x0000 32767) controller)
      (fun t => decide (t.fault = some .hostContractVec) && t.hdr0 == 0x00) := by decide

theorem test_write_request_h8_refused :
    nextWith (exec (.writeRequestH8 0x3E 0x99 0x100 1) { writing with hdr0 := 0x11 })
      (fun t => t.hostLog == [.result false] && t.hdr0 == 0x11) := by decide

/-- V-SRC-3: most significant byte first. -/
theorem test_write_request_h16 :
    nextWith (exec (.writeRequestH16 0x3E 0x1234 0x200 3) controller)
      (fun t => t.hdr0 == 0x12 && t.hdr1 == 0x34 && t.limit == 2 && decide (t.curSpace = .hdr)) := by
  decide

/-- V-SRC-2 b: the address byte 0x43 and role CR. -/
theorem test_read_request :
    nextWith (exec (.readRequest 0x21 0x400 2) controller)
      (fun t => t.address == 0x43 && decide (t.role = .controllerReceive) && t.cursor == 0x400) := by
  decide

/-- V-HOST-16, and P3's count -1. -/
theorem test_await :
    nextWith (exec (.awaitCompleted 0) bench) (fun t => t.hostLog == [.count 0]) ∧
    nextWith (exec (.awaitCompleted 0) { bench with lifecycle := .error, transferredCount := -1 })
      (fun t => t.hostLog == [.count (-1)]) := by decide

/-- V-HOST-13 and V-HOST-14, and the READ slot beside it. -/
theorem test_set_write_buf :
    nextWith (exec (.setWriteBuf 0xFFFF 2) bench)
      (fun t => decide (t.fault = some .hostContractBuf) && t.hostLog == []) ∧
    nextWith (exec (.setWriteBuf 0xFFFE 2) bench) (fun t => decide (t.writeSlot = ⟨0xFFFE, 2⟩)) := by
  decide

theorem test_set_read_buf :
    nextWith (exec (.setReadBuf 0x310 2) bench)
      (fun t => decide (t.readSlot = ⟨0x310, 2⟩) && decide (t.writeSlot = ⟨0, 0⟩)) ∧
    nextWith (exec (.setReadBuf 0 32768) bench)
      (fun t => decide (t.fault = some .hostContractBuf)) := by decide

/-- V-SRC-5 step 7 and V-TR-7; V-HOST-15. -/
theorem test_dispatch :
    nextWith (exec .dispatch { target with
        taddr := 0x00, nslot := ⟨true, 1, 3⟩, writeSlot := ⟨0x380, 4⟩ })
      (fun t => t.hostLog == [.onRequest 1 0x380 3, .result true] && t.taddr == 0x42 &&
        decide (t.nslot = ⟨false, Recipient.null, 0⟩)) ∧
    nextWith (exec .dispatch bench) (fun t => t.hostLog == [.result false] && t.taddr == 0x00) := by
  decide

/-! ## The conforming bus (R82, R163) -/

/-- Rows of R82's table; the filter of R163 is off while TADDR is 0 and in the wait of a target-receive
stop. -/
theorem test_successor_codes :
    successorCodes { target with lastEvent := 1, address := 0x7C } [(.data, 0x7C)] =
      [3, 4, 7, 13, 15, 22] ∧
    successorCodes { target with lastEvent := 1, address := 0x7D, taddr := 0x00 } [(.data, 0x7D)] =
      [8, 9, 7, 13, 15, 22] ∧
    successorCodes target [(.stop, 0x00)] = [12, 21] ∧
    successorCodes bench [(.stop, 0x00)] = [] ∧
    filterOn target = true ∧ filterOn { target with taddr := 0x00 } = false ∧
    filterOn { target with phase := .waitStop .kTrDone } = false := by decide

/-! ## Steps -/

/-- An event step writes `last_event` before the fault it raises (V-CR-4). -/
theorem test_step_event :
    nextWith (step (withTurns [.agent .sequencer] (pending 0x58 { reading with limit := 0x400 })))
      (fun t => t.lastEvent == 11 && decide (t.fault = some .bufferOverrun)) := by decide

/-- V-TR-5: the second post faults, lifecycle and TADDR are written, the phase and the slot stay. -/
theorem test_step_notify_overrun :
    nextWith (step (withTurns [.agent .sequencer]
        (waited .kTrDone { target with lifecycle := .active, nslot := ⟨true, 1, 1⟩ })))
      (fun t => decide (t.fault = some .notifyOverrun) && decide (t.lifecycle = .idle) &&
        t.taddr == 0x00 && decide (t.phase = .waitStop .kTrDone) &&
        decide (t.nslot = ⟨true, 1, 1⟩)) := by decide

/-- V-HOST-19: `await_completed` holds while ACTIVE; the operation stays at the port. The host's store
lands before the call (R54) and not in the hold (R10). -/
theorem test_step_await_holds :
    nextWith (step (withTurns [.agent .host] { writing with port := [0x08, 0x00] }))
      (fun t => t.port == [0x08, 0x00] && t.hostLog == [] && t.awaiting) ∧
    [false, true].all (fun b =>
      nextWith (step (withTurns [.agent (.hostStore 0x200 0x5A)]
          { writing with port := [0x08, 0x00], awaiting := b }))
        (fun t => memRead t.mem 0x200 == (if b then memRead writing.mem 0x200 else 0x5A))) := by
  decide

/-- The hold lifts with the lifecycle: the host's next step returns the count. -/
theorem test_step_await_returns :
    nextWith (step (withTurns [.agent .host]
        { writing with lifecycle := .idle, transferredCount := 2, port := [0x08, 0x00], awaiting := true }))
      (fun t => t.port == [] && t.hostLog == [.count 2] && !t.awaiting) := by decide

/-- R150: the operations of a program with no end go on arriving; those of a finite one do not. -/
theorem test_step_host_program :
    nextWith (step (withTurns [.agent (.hostProgram [0x0B])] { bench with endless := true }))
      (fun t => t.port == [0x0B]) ∧
    nextWith (step (withTurns [.agent (.hostProgram [0x0B])] bench)) (fun t => t.port == []) := by
  decide

/-- V-HOST-20: a reserved opcode is refused. -/
theorem test_step_refused :
    step (withTurns [.agent .host] { bench with port := [0x0C] }) = .refused .reservedOpcode := rfl

/-- An opcode-table word of each interface runs as the very next step after reset. -/
theorem test_with_fetch_word :
    nextWith (step (State.reset.withFetchWord 8 0x0B)) (fun t => t.hostLog == [.result false]) ∧
    nextWith (step (State.reset.withFetchWord 8 0x01)) (fun t => t.busLog == [(.start, 0x00)]) ∧
    nextWith (step (State.reset.withFetchWord 8 0xE0))
      (fun t => t.lastEvent == 28 && t.busLog == [(.idle, 0x00)]) := by decide

theorem test_decode_table_word :
    decodeTableWord 8 0x0B = some .dispatch ∧ decodeTableWord 8 0x01 = some .cmdStart ∧
    decodeTableWord 8 0xE0 = some .evUnrecognizedE0 ∧ decodeTableWord 8 0x0C = some .evStart := by
  decide

/-! ## Witnesses: states and operands that meet the hypotheses of each obligation

`witness_<Name>` (one theorem, or one per clause at a boundary value) shows that the hypotheses of
`Obligations.<Name>` can hold together; its text repeats those hypotheses for concrete values. -/

/-- The invariant that many statements assume holds of the states used below. -/
theorem witness_states_meet_Inv :
    [bench, controller, target, writing, reading].all (fun s => decide (Inv s)) := by decide

/-- A setting of the parameters that is not the default, legal and with reset state of its own. -/
theorem witness_InvariantHoldsAtReset :
    narrow.wf ∧ ({ Params.default with n := 300, aw := 24 } : Params).wf ∧
    (State.resetWith { Params.default with n := 4 }).iov.length = 5 := by decide

theorem witness_EveryStepKeepsTheInvariant :
    Inv (withTurns [.agent .sequencer] (pending 0x50 reading)) ∧
    nextWith (step (withTurns [.agent .sequencer] (pending 0x50 reading)))
      (fun t => t.mem == [(0x400, 0xB0)]) := by decide

theorem witness_EveryStepKeepsTheParameters :
    nextWith (step (withTurns [.agent .host] { bench with port := [0x02] }))
      (fun t => t.params == bench.params) := by decide

theorem witness_NoStepLeavesItsAddressSpaces :
    Inv (withTurns [.agent .sequencer] (pending 0x28 { writing with
      iov := [⟨.mem, 0xFFFF, 1⟩, ⟨.mem, 0, 0⟩, ⟨.mem, 0, 0⟩], cursor := 0xFFFF, limit := 0x10000 })) := by
  decide

theorem witness_AFaultedBlockTakesNoStep :
    ({ bench with fault := some .notifyOverrun } : State).fault = some .notifyOverrun := by decide

/-- The second clause's hypothesis with a raise and without one; the third clause's. -/
theorem witness_NoInstructionClearsTheFault :
    nextWith (exec .endOp writing) (fun t => decide (t.fault ≠ none)) ∧
    nextWith (exec .endOp { bench with fault := some .bufferOverrun })
      (fun t => decide (t.fault = some .bufferOverrun)) ∧
    ({ bench with fault := some .bufferOverrun } : State).fault ≠ none := by decide

theorem witness_StepRunsTheFetchedHostOperation :
    let s := withTurns [.agent .host] { bench with port := [0x0B, 0x02] }
    s.turns = [.agent .host] ∧ s.fault = none ∧ s.phase = .ready ∧
      decodeHostOp s.params s.port = .ok (.dispatch, [0x02]) ∧ s.lifecycle ≠ .active := by decide

/-- The await form of the same statement, with the lifecycle its hypothesis asks. -/
theorem witness_StepRunsTheFetchedHostOperation_await :
    let s := withTurns [.agent .host] { bench with port := [0x08, 0x00] }
    s.fault = none ∧ s.phase = .ready ∧
      decodeHostOp s.params s.port = .ok (.awaitCompleted 0, []) ∧ s.lifecycle ≠ .active := by decide

/-- The arrival of further operations of a program with no end. -/
theorem witness_StepRunsTheFetchedHostOperation_arrival :
    let s := withTurns [.agent (.hostProgram [0x0B])] { bench with endless := true }
    s.turns = [.agent (.hostProgram [0x0B])] ∧ s.fault = none ∧ s.phase = .ready ∧
      s.endless = true ∧ s.port = [] ∧ ([0x0B] : List Byte) ≠ [] := by decide

theorem witness_StepRunsThePendingEvent :
    let s := withTurns [.agent .sequencer] (pending 0x08 controller)
    s.turns = [.agent .sequencer] ∧ s.fault = none ∧ s.phase = .ready ∧
      flagIntf s.flags = true ∧ ctrlEn s.ctrl = true ∧ ctrlIe s.ctrl = true := by decide

/-- INTF, EN or IE clear, and only that one. -/
theorem witness_StepRunsThePendingEvent_cleared :
    [(controller, false, true, true), (pending 0x08 { controller with ctrl := 0x06 }, true, false, true),
      (pending 0x08 { controller with ctrl := 0x05 }, true, true, false)].all (fun x =>
      let s := withTurns [.agent .sequencer] x.1
      decide (s.turns = [.agent .sequencer]) && decide (s.fault = none) && decide (s.phase = .ready) &&
        flagIntf s.flags == x.2.1 && ctrlEn s.ctrl == x.2.2.1 && ctrlIe s.ctrl == x.2.2.2) := by decide

/-- The stop wait with STOPP set, with no event pending and with one. -/
theorem witness_ResumeStepPerformsTheContinuation_waits :
    [(0x02 : Byte), 0x03].all (fun f =>
      let s := withTurns [.agent .sequencer] { waited .kTrDone controller with flags := f }
      decide (s.turns = [.agent .sequencer]) && decide (s.fault = none) &&
        decide (s.phase = .waitStop .kTrDone) && flagStopp s.flags) ∧
    irq { waited .kTrDone controller with flags := 0x03 } = true := by decide

/-- One state for each of the five continuations. -/
theorem witness_ResumeStepPerformsTheContinuation :
    [(Continuation.kIdle, controller), (.kError, controller), (.kTrDone, controller), (.kTrDone, target),
      (.kTrDone, { target with nslot := ⟨true, 1, 1⟩ })].all (fun x =>
      let s := withTurns [.agent .sequencer] (waited x.1 x.2)
      decide (s.turns = [.agent .sequencer]) && decide (s.fault = none) &&
        flagStopp s.flags == false && decide (s.phase = .waitStop x.1)) ∧
    controller.notifyTarget = Recipient.null ∧
    target.notifyTarget ≠ Recipient.null ∧ target.nslot.full = false := by decide

/-- A command, and the first and last reserved values. -/
theorem witness_StepRunsOrRefusesAMockCommand :
    [(0x05 : Byte), 0x06, 0xFF].all (fun b =>
      let s := withTurns [.mockCommand b] bench
      decide (s.turns = [.mockCommand b]) && decide (s.fault = none)) ∧
    6 ≤ (0x06 : Byte).toNat ∧ 6 ≤ (0xFF : Byte).toNat := by decide

/-- The event is raised in the first state and passes in the other two. -/
theorem witness_EnvironmentRaisesAnyEvent :
    [controller, bench, { controller with flags := 0x01 }].all (fun x =>
      let s := withTurns [.agent (.busEvent 0xFF 0x5A)] x
      decide (s.turns = [.agent (.busEvent 0xFF 0x5A)]) && decide (s.fault = none)) ∧
    ctrlEn controller.ctrl = true ∧ flagIntf controller.flags = false ∧ ctrlEn bench.ctrl = false := by
  decide

/-- STOPP set with the engine off, and STOPP clear. -/
theorem witness_EnvironmentClearsTheStop :
    [{ bench with flags := 0x02 }, bench].all (fun x =>
      let s := withTurns [.agent .stopClear] x
      decide (s.turns = [.agent .stopClear]) && decide (s.fault = none)) ∧
    flagStopp (0x02 : Byte) = true ∧ flagStopp bench.flags = false := by decide

theorem witness_HostHasNoMoveDuringAStopWait :
    [Turn.agent .host, .agent (.hostStore 0 1), .agent (.hostProgram [0x02])].all (fun t =>
      let s := withTurns [t] (waited .kIdle { bench with port := [0x02] })
      decide (s.turns = [t]) && decide (s.fault = none) && decide (s.phase ≠ .ready)) := by decide

/-- The last address of data memory. -/
theorem witness_HostStoreWritesOneByte :
    let s := withTurns [.agent (.hostStore 0xFFFF 0x5A)] target
    s.turns = [.agent (.hostStore 0xFFFF 0x5A)] ∧ s.fault = none ∧ s.phase = .ready ∧
      Memory.wf s.mem ∧ 0xFFFF < 2 ^ s.params.aw ∧ s.awaiting = false := by decide

/-- The same while ACTIVE, with an `await_completed` at the port that the host has not called. -/
theorem witness_HostStoreWritesOneByte_active :
    let s := withTurns [.agent (.hostStore 0x200 0x5A)] { writing with port := [0x08, 0x00] }
    s.fault = none ∧ s.phase = .ready ∧ Memory.wf s.mem ∧ s.lifecycle = .active ∧
      s.awaiting = false := by decide

theorem witness_EngineOffRaisesNoEvent :
    let s := withTurns [.agent .host] { bench with port := [0x0B] }
    ctrlEn s.ctrl = false ∧ s.phase = .ready ∧ nextWith (step s) (fun _ => true) := by decide

theorem witness_EveryStatusDecodesByItsCode : Params.default.statusMap = Config.statusMap := by decide

/-- Both directions of the equivalence have an instance, and the second clause's hypothesis one. -/
theorem witness_TargetAddressNacksNeedAnotherMap :
    decodeEvent otherMap (statusCode 0xD0) = .ttAddrNack ∧
    decodeEvent otherMap (statusCode 0xD8) = .trAddrNack ∧
    Params.default.statusMap = Config.statusMap := by decide

/-- A vector of N + 1 entries with the greatest operands. -/
theorem witness_DecodeOfEncodeIsTheInstruction :
    Params.default.wf ∧ Params.default.statusMap = Config.statusMap ∧
    (Instr.request 0xFF (List.replicate 3 ⟨.hdr, 0xFFFF, 0xFFFF⟩)).wellFormed Params.default = true := by
  decide

/-- A vector of more entries than a byte counts, and operands at widths that are no whole bytes. -/
theorem witness_DecodeOfEncodeIsTheInstruction_otherParameters :
    ({ Params.default with n := 300 } : Params).wf ∧
    (Instr.request 0 (List.replicate 301 Segment.sentinel)).wellFormed
      { Params.default with n := 300 } = true ∧
    narrow.wf ∧ (Instr.begin 3 0x21).wellFormed narrow = true := by
  have vec : ∀ k, 1 ≤ k → k ≤ 301 →
      (Instr.request 0 (List.replicate k Segment.sentinel)).wellFormed
        { Params.default with n := 300 } = true := by
    intro k h1 h2
    simp [Instr.wellFormed, vecWellFormed, Segment.wellFormed, bufWellFormed, inWidth,
      Segment.sentinel, h1, h2]
  exact ⟨by decide, vec 301 (by omega) (by omega), by decide, by decide⟩

theorem witness_DecodedHostOperationsAreWellFormed :
    decodeHostOp Params.default [0x0A, 0xFF, 0xFF, 0xFF, 0xFF] = .ok (.setReadBuf 0xFFFF 0xFFFF, []) := by
  decide

/-- The opcode and address clauses at their boundaries: opcodes 0, 12 and 255; address 128. -/
theorem witness_OperationsThatSpellNoneAreRefused :
    [[(0x00 : Byte)], [0x0C], [0xFF], [0x04, 0x80], [0x07, 0x80]].all (fun bs =>
      let s := withTurns [.agent .host] { bench with port := bs }
      decide (s.turns = [.agent .host]) && decide (s.fault = none) && decide (s.phase = .ready)) ∧
    12 ≤ (0x0C : Byte).toNat ∧ 128 ≤ (0x80 : Byte).toNat := by decide

/-- A `buf`, a `size`, a notify target and a sleep mode just above their widths. -/
theorem witness_OperationsThatSpellNoneAreRefused_widths :
    OutsideWidth narrow.aw 0x1000 ∧ OutsideWidth narrow.lw 0x1000 ∧
    OutsideWidth narrow.recipientBits 4 ∧ OutsideWidth narrow.sleepBits 4 ∧
    [[(0x06 : Byte), 0x50, 0x12, 0x34, 0x10, 0x00], [0x09, 0x00, 0x00, 0x10, 0x00], [0x01, 0x04],
      [0x08, 0x04]] =
      [0x06 :: ([0x50, 0x12, 0x34] ++ (putOperand narrow.aw 0x1000 ++ [])),
        0x09 :: ([] ++ (putOperand narrow.aw 0 ++ (putOperand narrow.lw 0x1000 ++ []))),
        0x01 :: (putOperand narrow.recipientBits 4 ++ []),
        0x08 :: (putOperand narrow.sleepBits 4 ++ [])] := by decide

/-- The clauses of a vector: three entries with a mark of one more where N + 1 is 3, and after one good
entry a space byte 2, a base and a length above their widths, and a mark 2. -/
theorem witness_OperationsThatSpellNoneAreRefused_vectors :
    narrow.n + 1 = 3 ∧ Segment.sentinel.wellFormed narrow = true ∧
    (List.replicate 3 Segment.sentinel).flatMap (putMore narrow) =
      [0, 0, 0, 0, 0, 1, 0, 0, 0, 0, 0, 1, 0, 0, 0, 0, 0, 1] ∧
    [Segment.sentinel].length ≤ narrow.n ∧ 2 ≤ (0x02 : Byte).toNat ∧
    [(0 : Byte), 0x10, 0x00] = 0 :: (putOperand narrow.aw 0x1000 ++ []) ∧
    [(0 : Byte), 0, 0, 0x10, 0x00] =
      0 :: (putOperand narrow.aw 0 ++ (putOperand narrow.lw 0x1000 ++ [])) ∧
    [(0 : Byte), 0, 0, 0, 0, 2] = putSegment narrow Segment.sentinel ++ 2 :: [] := by decide

theorem witness_NoReservedCommandReachesCmd :
    6 ≤ (0x06 : Byte).toNat ∧ 6 ≤ (0xFF : Byte).toNat ∧
    nextWith (exec .cmdNack bench) (fun t => t.cmd == 0x05) := by decide

/-- The statements that quantify over a listed set of events: each set has members. -/
theorem witness_StartEventsSendTheAddress : Instr.evRepStart ∈ [Instr.evStart, .evRepStart] := by decide

theorem witness_StopPathsIssueStopAndWait :
    (Instr.evNoInfo, Continuation.kError) ∈ [(Instr.evCtDataNack, Continuation.kIdle),
      (.evTrStop, .kTrDone), (.evNoInfo, .kError)] := by decide

/-- The five cases: a byte left (the last of memory), a next entry with bytes (in the header store), a
next entry that is empty, one past a sentinel, no next entry; the first two with the greatest count that
the premise admits, the others after a transfer of COUNT_MAX bytes. -/
theorem witness_TransmitAcksSendTheNextByte :
    [{ writing with
        iov := [⟨.mem, 0xFFFF, 1⟩, ⟨.mem, 0, 0⟩, ⟨.mem, 0, 0⟩], cursor := 0xFFFF, limit := 0x10000
        transferredCount := 32766 },
      { writing with
        iov := [⟨.mem, 0x100, 2⟩, ⟨.hdr, 1, 1⟩, ⟨.mem, 0, 0⟩], cursor := 0x102
        transferredCount := 32766 }].all (fun s =>
      decide (Inv s) && decide (s.transferredCount + 1 < 2 ^ (s.params.cw - 1))) ∧
    (∀ x ∈ ([⟨.mem, 0x100, 2⟩, ⟨.hdr, 1, 1⟩, ⟨.mem, 0, 0⟩] : List Segment).take 1, 0 < x.len) ∧
    (∃ x ∈ ([⟨.mem, 0x100, 1⟩, ⟨.mem, 0, 0⟩, ⟨.mem, 0x200, 1⟩] : List Segment).take 2, x.len = 0) ∧
    [{ writing with cursor := 0x102, transferredCount := 32767 },
      { writing with
        iov := [⟨.mem, 0x100, 1⟩, ⟨.mem, 0, 0⟩, ⟨.mem, 0x200, 1⟩], segmentIndex := 1
        cursor := 0, limit := 0, transferredCount := 32767 },
      { writing with segmentIndex := 2, cursor := 0x102, transferredCount := 32767 }].all (fun s =>
      decide (Inv s) && decide (s.cursor = s.limit)) := by decide

/-- The top of the format and the failure count. -/
theorem witness_CountIsTwosComplement :
    CountInRange Params.default 32767 ∧ CountInRange Params.default (-1) ∧ 1 ≤ Params.default.cw := by
  decide

theorem witness_ErrorPathEndsInError :
    Instr.evBusError ∈ [Instr.evCtAddrNack, .evBusError] ∧ writing.fault = none := by decide

theorem witness_DataNackEndsIdleWithTheCount : writing.fault = none := by decide

/-- Room 2, room 1 and room 0. -/
theorem witness_ReceiveAddressAckDecidesTheAck :
    (reading.cursor ≤ reading.limit ∧ reading.cursor + 1 < reading.limit) ∧
    [{ reading with limit := 0x401 }, { reading with limit := 0x400 }].all (fun s =>
      decide (s.cursor ≤ s.limit) && decide (s.limit ≤ s.cursor + 1)) := by decide

/-- Room for three bytes (an ACK follows), for two and in the header store (a NACK follows), each with
the greatest count that the premise admits; and no room after a read of COUNT_MAX bytes. -/
theorem witness_ReceiveDataAckStoresTheByte :
    [{ reading with limit := 0x403 }, reading, inHeader true, inHeader false].all (fun x =>
      let s := { x with transferredCount := 32766 }
      decide (Inv s) && decide (s.cursor < s.limit) &&
        decide (s.transferredCount + 1 < 2 ^ (s.params.cw - 1))) ∧
    reading.cursor + 2 < 0x403 ∧
    (let s := { reading with cursor := 0x402, transferredCount := 32767 }
     Inv s ∧ s.limit ≤ s.cursor) := by decide

theorem witness_ReceiveDataNackStoresAndStops :
    (let s := { reading with limit := 0x401, transferredCount := 32766 }
     Inv s ∧ s.cursor < s.limit ∧ s.transferredCount + 1 < 2 ^ (s.params.cw - 1)) ∧
    (let s := { reading with limit := 0x400, transferredCount := 32767 }
     Inv s ∧ s.limit ≤ s.cursor) := by
  exact ⟨by decide, by decide⟩

/-- A slot with bytes up to the end of memory, and an empty slot. -/
theorem witness_TransmitSelectionSendsTheFirstByte :
    [{ target with readSlot := ⟨0xFFFF, 1⟩ }, { target with readSlot := ⟨0x310, 0⟩ }].all
      (fun s => decide (Inv s)) := by decide

theorem witness_TransmitAckSendsTheNextTargetByte :
    [{ target with cursor := 0x311, limit := 0x312 }, { target with cursor := 0x312, limit := 0x312 }].all
      (fun s => decide (Inv s)) := by decide

theorem witness_TargetTransmitEndsIdle :
    Instr.evTtLastData ∈ [Instr.evTtDataNack, .evTtLastData] := by decide

theorem witness_ReceiveSelectionLatchesTheWriteSlot :
    Instr.evTrArbLostGcallAck ∈ [Instr.evTrAddrAck, .evTrArbLostAddrAck, .evTrGcallAck,
      .evTrArbLostGcallAck] := by decide

/-- The last byte of room, and no room after a WRITE slot of COUNT_MAX bytes was filled. -/
theorem witness_TargetReceiveStoresOrDiscards :
    (let s := { target with cursor := 0x301, limit := 0x302, transferredCount := 32766 }
     Inv s ∧ s.cursor < s.limit ∧ s.transferredCount + 1 < 2 ^ (s.params.cw - 1)) ∧
    (let s := { target with cursor := 0x7FFF, limit := 0x7FFF, transferredCount := 32767 }
     Inv s ∧ s.limit ≤ s.cursor) := by
  exact ⟨by decide, by decide⟩

theorem witness_TargetStopPostsTheCount :
    target.fault = none ∧ ({ target with nslot := ⟨true, 1, 1⟩ } : State).fault = none := by decide

theorem witness_UnrecognizedCodesOnlyIssueIdle :
    Instr.evUnrecognizedF0 ∈ [Instr.evUnrecognizedD0, .evUnrecognizedF0] := by decide

/-- Each rejection, the controller mode, and the two ends of the target addresses. -/
theorem witness_BeginConfiguresOrReturnsFalse :
    writing.lifecycle = .active ∧ 127 < (0x80 : Byte).toNat ∧ bench.lifecycle ≠ .active ∧
    (0x01 : Byte) ≠ 0 ∧ (0x7F : Byte).toNat ≤ 127 ∧ (1 : Recipient) ≠ Recipient.null := by decide

theorem witness_EndDisablesTheEngine :
    bench.lifecycle ≠ .active ∧ writing.lifecycle = .active ∧
    nextWith (exec .endOp bench) (fun _ => true) := by decide

/-- Turned away (two ways), accepted with a sum of COUNT_MAX at the end of memory, and outside the
contract. -/
theorem witness_RequestStartsOrReturnsFalseOrFaults :
    ctrlEn bench.ctrl = false ∧ controller.lifecycle ≠ .active ∧ ctrlEn controller.ctrl = true ∧
    vecContract controller.params [⟨.mem, 0x8001, 0x7FFF⟩, ⟨.mem, 0, 0⟩] = true ∧
    vecContract controller.params [⟨.mem, 0x8000, 0x8000⟩, ⟨.mem, 0, 0⟩] = false ∧
    ([⟨.mem, 0, 0⟩, ⟨.mem, 0, 0⟩] : List Segment).length ≤ controller.params.n := by decide

/-- The bounds of a payload from both sides, for the plain and the header forms. -/
theorem witness_PlainTransfersRequestOnePayload :
    2 ≤ controller.params.n ∧ 0x8001 + 0x7FFF ≤ 2 ^ controller.params.aw ∧
    0x7FFF ≤ controller.params.countMax ∧ controller.params.countMax < 0x8000 ∧
    2 ^ controller.params.aw < 0xFFFF + 2 := by decide

theorem witness_ByteHeaderIsLatchedOnAcceptance :
    2 ≤ controller.params.n ∧ 1 + 0x7FFE ≤ controller.params.countMax ∧
    controller.params.countMax < 1 + 0x7FFF ∧ controller.lifecycle ≠ .active ∧
    ctrlEn controller.ctrl = true := by decide

theorem witness_WordHeaderIsLatchedHighByteFirst :
    2 ≤ controller.params.n ∧ 2 + 0x7FFD ≤ controller.params.countMax ∧
    controller.params.countMax < 2 + 0x7FFE ∧ controller.lifecycle ≠ .active ∧
    ctrlEn controller.ctrl = true := by decide

theorem witness_AwaitReturnsTheCountOrHolds :
    bench.lifecycle ≠ .active ∧
    [false, true].all (fun b =>
      [Turn.agent .host, .agent (.hostStore 0 1), .agent (.hostProgram [0x02])].all (fun t =>
        let s := withTurns [t] { writing with port := [0x08, 0x00, 0x0B], awaiting := b }
        decide (s.turns = [t]) && decide (s.fault = none) && decide (s.lifecycle = .active) &&
          decide (s.phase = .ready) && decide (s.awaiting = b))) ∧
    decodeHostOp writing.params [0x08, 0x00, 0x0B] = .ok (.awaitCompleted 0, [0x0B]) := by decide

theorem witness_SlotsAreInstalledOrFault :
    0xFFFE + 2 ≤ 2 ^ bench.params.aw ∧ 2 ≤ bench.params.countMax ∧
    2 ^ bench.params.aw < 0xFFFF + 2 ∧ bench.params.countMax < 0x8000 := by decide

theorem witness_DispatchDeliversAndRearms :
    ({ target with nslot := ⟨true, 1, 3⟩ } : State).nslot.full = true ∧ target.nslot.full = false := by
  decide

/-- A write of no byte, and one of COUNT_MAX bytes up to the end of memory. -/
theorem witness_AlwaysAckedWriteSendsEveryByte :
    Inv controller ∧ controller.lifecycle ≠ .active ∧ ctrlEn controller.ctrl = true ∧
    0x8001 < 2 ^ controller.params.aw ∧ 0x7FFF < 2 ^ controller.params.lw ∧
    0x8001 + 0x7FFF ≤ 2 ^ controller.params.aw ∧ 0x7FFF ≤ controller.params.countMax := by decide

/-- A command and a fault. -/
theorem witness_EveryEventIssuesOneCommandOrFaults :
    Instr.evCrDataAck.format = .status ∧ nextWith (exec .evCrDataAck reading) (fun _ => true) ∧
    nextWith (exec .evCrDataAck bench) (fun t => decide (t.fault = some .bufferOverrun)) := by decide

theorem witness_TransitionsIgnoreRoleAndLifecycle :
    Instr.evTtAddrAck.format = .status ∧ nextWith (exec .evTtAddrAck target) (fun _ => true) := by decide

theorem witness_LogsAreObservationOnly :
    nextWith (exec .dispatch { target with nslot := ⟨true, 1, 3⟩ }) (fun t => t.hostLog.length == 2) := by
  decide

theorem witness_OnlyReceiveEventsStoreInMemory :
    Memory.wf reading.mem ∧
    nextWith (exec .evCrDataAck reading) (fun t => memRead t.mem 0x400 == 0xB0) ∧
    nextWith (exec (.writeRequestH8 0x3E 0x99 0x100 1) controller) (fun t =>
      t.hdr0 == 0x99 && t.hostLog == controller.hostLog ++ [.result true]) ∧
    nextWith (exec .evCrDataAck (inHeader true)) (fun t => t.hdr1 == 0xB0) := by decide

/-- Both ways in: a selection and an accepted request. -/
theorem witness_ActiveIsEnteredByRequestOrSelection :
    nextWith (step (withTurns [.agent .sequencer] (pending 0x60 target)))
      (fun t => decide (t.lifecycle = .active)) ∧
    nextWith (step (withTurns [.agent .host] { controller with port := [0x04, 0x3E, 1, 0, 0, 1] }))
      (fun t => decide (t.lifecycle = .active)) ∧
    target.lifecycle ≠ .active ∧ controller.lifecycle ≠ .active := by decide

/-- Both ways out: a resume step and an arbitration loss. -/
theorem witness_ActiveIsLeftOnlyByTheSequencer :
    nextWith (step (withTurns [.agent .sequencer] (waited .kIdle writing)))
      (fun t => decide (t.lifecycle = .idle)) ∧
    nextWith (step (withTurns [.agent .sequencer] (pending 0x38 writing)))
      (fun t => decide (t.lifecycle = .error)) ∧ writing.lifecycle = .active := by decide

theorem witness_HostCannotChangeAnActiveTransaction :
    (Instr.begin 1 0x21).format = .hostOp ∧ writing.lifecycle = .active ∧
    nextWith (exec (.begin 1 0x21) writing) (fun t => t.hostLog == [.result false]) := by decide

/-! ### A weakly fair run through a stop wait -/

/-- A block in its stop wait; STOPP clears and the sequencer resumes, then nothing is enabled but the
host's own stores. -/
def stopping : State :=
  { bench with
    phase := .waitStop .kIdle, flags := 0x02, turns := [.agent .stopClear, .agent .sequencer] }

/-- No fair move is enabled and none will be. -/
def Quiet (s : State) : Prop :=
  s.fault = none ∧ s.phase = .ready ∧ s.port = [] ∧ s.endless = false ∧ s.flags = 0x00 ∧
    ctrlEn s.ctrl = false ∧ s.turns = []

/-- The run of `step` from a state, staying where no next state is answered. -/
def runFrom (s : State) : Nat → State
  | 0 => s
  | k + 1 =>
    match step (runFrom s k) with
    | .next t => t
    | .fault _ => runFrom s k
    | .refused _ => runFrom s k

/-- A quiet state steps to a quiet one, whatever move the free draw gives. -/
theorem quiet_step (s : State) (h : Quiet s) : ∃ t, step s = .next t ∧ Quiet t := by
  obtain ⟨hf, hp, hq, hn, hfl, he, ht⟩ := h
  have hi : flagIntf s.flags = false := by rw [hfl]; decide
  have hs : flagStopp s.flags = false := by rw [hfl]; decide
  rw [step_free s hf ht]
  have pass : ∀ m, enabled m s = false →
      ∃ t, performTurn (.agent m) { s with tick := s.tick + 1 } = .next t ∧ Quiet t := fun m hm =>
    ⟨_, performTurn_pass m { s with tick := s.tick + 1 } hm, hf, hp, hq, hn, hfl, he, ht⟩
  cases hm : Config.freeMove s.tick with
  | sequencer => exact pass _ (by simp [enabled, sequencerEnabled, irq, hp, hi])
  | host => exact pass _ (by simp [enabled, hq])
  | busEvent st d => exact pass _ (by simp [enabled, he])
  | stopClear => exact pass _ (by simp [enabled, hs])
  | hostProgram bs => exact pass _ (by simp [enabled, hn])
  | hostStore a v =>
    cases hen : enabled (.hostStore a v) s with
    | false => exact pass _ hen
    | true =>
      exact ⟨_, performTurn_enabled (.hostStore a v) { s with tick := s.tick + 1 } hen,
        hf, hp, hq, hn, hfl, he, ht⟩

theorem stopping_quiet (k : Nat) : Quiet (runFrom stopping (k + 2)) := by
  induction k with
  | zero => unfold Quiet; decide
  | succ k ih =>
    obtain ⟨t, ht, hq⟩ := quiet_step _ ih
    have : runFrom stopping (k + 1 + 2) = t := by
      show (match step (runFrom stopping (k + 2)) with
        | .next t => t
        | .fault _ => _
        | .refused _ => _) = t
      rw [ht]
    rw [this]; exact hq

/-- The run is one, it is weakly fair, and it starts in a stop wait. -/
theorem witness_EveryStopWaitEnds :
    IsRun (runFrom stopping) ∧ WeaklyFair (runFrom stopping) ∧
    (runFrom stopping 0).phase = .waitStop .kIdle := by
  have off : ∀ m ∈ [Move.sequencer, .host, .stopClear], ∀ k,
      enabled m (runFrom stopping (k + 2)) = false := by
    intro m hm k
    obtain ⟨-, hp, hq, -, hfl, -, -⟩ := stopping_quiet k
    have hi : flagIntf (runFrom stopping (k + 2)).flags = false := by rw [hfl]; decide
    have hs : flagStopp (runFrom stopping (k + 2)).flags = false := by rw [hfl]; decide
    simp only [List.mem_cons, List.not_mem_nil, or_false] at hm
    rcases hm with rfl | rfl | rfl <;>
      simp [enabled, sequencerEnabled, irq, hp, hq, hi, hs]
  have fair : ∀ m ∈ [Move.sequencer, .host, .stopClear], FairTo m (runFrom stopping) := by
    intro m hm k h
    have := h (k + 2) (by omega)
    rw [off m hm k] at this
    cases this
  have program : FairToProgram (runFrom stopping) := by
    intro k h
    obtain ⟨bs, hbs⟩ := h (k + 2) (by omega)
    obtain ⟨-, -, -, hn, -⟩ := stopping_quiet k
    simp [enabled, hn] at hbs
  refine ⟨fun k => ?_, ⟨fair _ (by simp), fair _ (by simp), program, fair _ (by simp)⟩, rfl⟩
  match k with
  | 0 => rfl
  | 1 => rfl
  | k + 2 =>
    obtain ⟨t, ht, -⟩ := quiet_step _ (stopping_quiet k)
    rw [ht]
    show _ = Host.Outcome.next (match step (runFrom stopping (k + 2)) with
      | .next t => t
      | .fault _ => _
      | .refused _ => _)
    rw [ht]

/-- R82's row of IDLE, STOP and the ACK that ends a target-transmit; and R167's request with an event
pending, which START drops. -/
theorem test_selection_context :
    awaitsSelection target target.busLog.reverse = true ∧
    awaitsSelection { target with lastEvent := 24 } [(.ack, 0x00)] = true ∧
    awaitsSelection { target with lastEvent := 23 } [(.ack, 0x00)] = false ∧
    requestNext { controller with port := [0x04, 0x3E, 1, 0, 0, 1] } = true ∧
    nextWith (step (withTurns [.agent .host]
        { controller with flags := 0x01, port := [0x04, 0x3E, 1, 0, 0, 1] }))
      (fun t => t.flags == 0x00 && t.hostLog == [.result true]) := by decide

/-- The premises on runs of Laws/Header.lean and Laws/Bus.lean are met by the run from reset. -/
theorem witness_run_premises :
    let run := runFrom State.reset
    HeaderQuiet (run 0) ∧ IsRun run ∧ FilteringBus run ∧ NoEventPendingAtRequest run ∧
      ∀ k c, turnOf (run k) ≠ .mockCommand c := by
  have quiet : ∀ k, Quiet (runFrom State.reset k) := by
    intro k
    induction k with
    | zero => unfold Quiet; decide
    | succ k ih =>
      obtain ⟨t, ht, hq⟩ := quiet_step _ ih
      simpa [runFrom, ht] using hq
  have silent : ∀ k st, ¬Raises (runFrom State.reset k) st := by
    rintro k st ⟨d, -, he⟩
    obtain ⟨-, -, -, -, -, hen, -⟩ := quiet k
    simp [enabled, hen] at he
  refine ⟨reset_headerQuiet, fun k => ?_, ⟨fun k st hr => absurd hr (silent k st),
    fun k st hr => absurd hr (silent k st)⟩, fun k _ _ => ?_, fun k c => ?_⟩
  · obtain ⟨t, ht, -⟩ := quiet_step _ (quiet k)
    simp [runFrom, ht]
  · obtain ⟨-, -, -, -, hfl, -⟩ := quiet k
    rw [hfl]; decide
  · obtain ⟨-, -, -, -, -, -, ht⟩ := quiet k
    simp [turnOf, nextTurn, ht]

end Sys2Proof.Tests
end

section
/-!
PROOFS. The statements that cite spec/00_scope.md, each after the facts it needs: the frame of the
parameters, the count, the store of a receive event, CT_SEND, the host's turn, and what the decoder of the
host port refuses.
-/

namespace Sys2Proof.Machine

/-! ## The parameters (R7) -/

/-- Taking a turn leaves the parameters. -/
@[simp] theorem nextTurn_params (s : State) : (nextTurn s).2.params = s.params := by
  rcases nextTurn_cases s with ⟨t, ts, -, h⟩ | ⟨-, h⟩ <;> rw [h]

@[simp] theorem ctAdvance_params (s : State) : (ctAdvance s).params = s.params := by
  rcases ctAdvance_cases s with ⟨-, -, h⟩ | ⟨-, h⟩ <;> rw [h]
  rfl

@[simp] theorem crAckDecide_params (s : State) : (crAckDecide s).params = s.params := by
  rcases crAckDecide_cases s with ⟨-, h⟩ | ⟨-, h⟩ <;> rw [h] <;> rfl

@[simp] theorem configure_params (a : Byte) (s : State) : (configure a s).params = s.params := by
  rcases configure_cases s a with ⟨-, h⟩ | ⟨-, h⟩ <;> rw [h]

@[simp] theorem resume_params (k : Continuation) (s : State) : (resume k s).params = s.params := by
  rcases resume_cases s k with ⟨-, h⟩ | ⟨-, h⟩ | ⟨-, -, h⟩ | ⟨-, -, -, h⟩ | ⟨-, -, -, h⟩ <;> rw [h]

/-- No bus event writes the parameters. -/
theorem exec_event_params {i : Instr} {s u : State} (hf : i.format = .status)
    (h : exec i s = .next u) : u.params = s.params := by
  rcases exec_event i s u hf h with ⟨-, rfl⟩ | ⟨-, rfl⟩ | ⟨-, hsend⟩ | ⟨-, k, rfl⟩ | ⟨-, rfl⟩ |
    ⟨-, hstore⟩ | ⟨-, hstore⟩ | ⟨-, hsend⟩ | ⟨-, hsend⟩ | ⟨-, rfl⟩ | ⟨-, rfl⟩ | ⟨-, hstore⟩ | ⟨-, rfl⟩
  case inr.inr.inl =>
    rcases ctSendOrStop_next _ _ hsend with ⟨-, -, rfl⟩ | ⟨-, rfl⟩ <;> exact ctAdvance_params s
  case inr.inr.inr.inr.inl => exact crAckDecide_params s
  case inr.inr.inr.inr.inr.inl =>
    rcases crStore_next _ _ _ hstore with ⟨-, -, rfl⟩ | ⟨-, rfl⟩ <;> simp
  case inr.inr.inr.inr.inr.inr.inl =>
    rcases crStore_next _ _ _ hstore with ⟨-, -, rfl⟩ | ⟨-, rfl⟩ <;> simp
  case inr.inr.inr.inr.inr.inr.inr.inl =>
    rcases ttSend_next _ _ hsend with ⟨-, -, rfl⟩ | ⟨-, rfl⟩ <;> rfl
  case inr.inr.inr.inr.inr.inr.inr.inr.inl =>
    rcases ttSend_next _ _ hsend with ⟨-, -, rfl⟩ | ⟨-, rfl⟩ <;> rfl
  case inr.inr.inr.inr.inr.inr.inr.inr.inr.inr.inr.inl =>
    rcases trStore_next _ _ hstore with ⟨-, -, rfl⟩ | ⟨-, rfl⟩ <;> simp
  all_goals rfl

/-- No host operation writes the parameters. -/
theorem exec_hostOp_params {i : Instr} {s u : State} (hf : i.format = .hostOp)
    (h : exec i s = .next u) : u.params = s.params := by
  rcases exec_hostOp i s u hf h with ⟨rfl, -⟩ | ⟨r, rfl, -⟩ | ⟨r, rfl⟩ | ⟨n, a, -, -, rfl⟩ |
    ⟨-, -, rfl⟩ | ⟨-, -, ab, vec, h0, h1, -, -, rfl⟩ | ⟨b, n, -, -, rfl⟩ | ⟨b, n, -, -, rfl⟩ |
    ⟨-, -, rfl⟩
  case inr.inr.inr.inl => simp
  all_goals rfl

/-- No instruction writes the parameters. -/
theorem exec_params {i : Instr} {s u : State} (h : exec i s = .next u) : u.params = s.params := by
  cases hf : i.format with
  | cmd => obtain ⟨c, rfl⟩ := exec_command i s u hf h; rfl
  | status => exact exec_event_params hf h
  | hostOp => exact exec_hostOp_params hf h

/-- Settles O4: each of the ten things a step can be leaves them. -/
theorem everyStepKeepsTheParameters : Obligations.EveryStepKeepsTheParameters := by
  unfold Obligations.EveryStepKeepsTheParameters
  intro s u h
  rw [← nextTurn_params s]
  obtain ⟨-, v, rfl, hcases⟩ := step_cases s u h
  rcases hcases with ⟨m, -, -, rfl⟩ | ⟨-, -, -, hx⟩ | ⟨k, -, -, -, rfl⟩ | ⟨i, rest, -, -, -, -, hx⟩ |
    ⟨m, rest, -, -, -, -, -, rfl⟩ | ⟨a, b, -, -, -, -, rfl⟩ | ⟨bs, -, -, -, -, -, rfl⟩ |
    ⟨st, d, -, -, -, rfl⟩ | ⟨-, -, rfl⟩ | ⟨c, i, -, -, hx⟩
  case inr.inl => exact (exec_params hx :)
  case inr.inr.inl => exact resume_params k _
  case inr.inr.inr.inl => exact (exec_params hx :)
  case inr.inr.inr.inr.inr.inr.inr.inr.inr => exact exec_params hx
  all_goals rfl

/-! ## The count (R8, R32) -/

/-- The top of the signed format, taken as a residue, is the bottom. -/
theorem bmod_half (k : Nat) : Int.bmod (2 ^ k) (2 ^ (k + 1)) = -2 ^ k := by
  have half : ((2 ^ (k + 1) : Nat) : Int) = 2 * 2 ^ k := by push_cast; ring
  calc Int.bmod (2 ^ k) (2 ^ (k + 1))
      = Int.bmod (2 ^ k - (2 ^ (k + 1) : Nat)) (2 ^ (k + 1)) := (Int.sub_bmod_right _ _).symm
    _ = Int.bmod (-2 ^ k) (2 ^ (k + 1)) := by rw [half]; congr 1; omega
    _ = -2 ^ k := by
      have pos : (0 : Int) < 2 ^ k := by positivity
      exact Int.bmod_eq_of_le (by omega) (by omega)

/-- Settles O29: below the top the count goes up by one, and from the top it wraps to the bottom. -/
theorem countIsTwosComplement : Obligations.CountIsTwosComplement := by
  unfold Obligations.CountIsTwosComplement
  rintro p c hw ⟨hlo, hhi⟩
  split
  · next htop =>
    obtain ⟨k, hk⟩ : ∃ k, p.cw = k + 1 := ⟨p.cw - 1, by omega⟩
    rw [countSucc, htop, hk, Nat.add_sub_cancel, bmod_half]
  · next htop => exact countSucc_eq p c hw hlo (by omega)

/-! ## The cursor's access under the invariant (R31, R44) -/

/-- The invariant keeps the walk inside its segment and the segment inside its space. -/
theorem walkOk_of_inv {s : State} (h : Inv s) : WalkOk s := by
  obtain ⟨-, -, -, -, hw, -⟩ := h
  exact hw

/-- An address below the first one that a space does not have exists in it. -/
theorem spaceHas_of_lt_spaceTop {p : Params} {sp : Space} {a : Nat} (h : a < spaceTop p sp) :
    spaceHas p sp a = true := by
  cases sp <;> simpa [spaceHas, spaceTop] using h

/-- Under the invariant the cursor's access succeeds while a byte of the segment is left. -/
theorem atCursor_of_lt_limit {s : State} (hw : WalkOk s) (h : s.cursor < s.limit) (next : State) :
    atCursor s next = .next next :=
  (atCursor_next_iff s next next).mpr ⟨spaceHas_of_lt_spaceTop (Nat.lt_of_lt_of_le h hw.2), rfl⟩

/-- What storing DATA at the cursor does, where a byte of room is left and the count is below its top:
one byte of the cursor's space, the cursor and the count (R9, R31, R32; log 24). -/
theorem storeByte_room {s : State} (hI : Inv s) (hroom : s.cursor < s.limit)
    (hc : s.transferredCount + 1 < 2 ^ (s.params.cw - 1)) :
    ∃ m, storeByte s = { s with
        mem := m
        hdr0 := if s.curSpace = .hdr ∧ s.cursor = 0 ∧ s.params.receiveWritesHdr = true
          then s.data else s.hdr0
        hdr1 := if s.curSpace = .hdr ∧ s.cursor = 1 ∧ s.params.receiveWritesHdr = true
          then s.data else s.hdr1
        cursor := s.cursor + 1
        transferredCount := s.transferredCount + 1 } ∧
      ∀ a, memRead m a = if s.curSpace = .mem ∧ a = s.cursor then s.data else memRead s.mem a := by
  obtain ⟨⟨-, -, hcw, -⟩, -, -, -, ⟨-, hlim⟩, -, -, ⟨hlo, -⟩, -, -, ⟨hmem, -⟩⟩ := hI
  have hcount : countSucc s.params s.transferredCount = s.transferredCount + 1 :=
    countSucc_eq _ _ hcw hlo hc
  unfold storeByte
  rw [hcount]
  rcases segWrite_cases s.curSpace s.cursor s.data s with
    ⟨hs, hw⟩ | ⟨hs, hp, hz, hw⟩ | ⟨hs, hp, hz, hw⟩ | ⟨hs, hp, hw⟩ <;> rw [hw]
  · refine ⟨memWrite s.mem s.cursor s.data, by simp [hs], fun a => ?_⟩
    by_cases ha : a = s.cursor
    · simp [hs, ha, memRead_memWrite_same _ _ _ hmem]
    · simp [ha, memRead_memWrite_other _ _ _ _ ha]
  · exact ⟨s.mem, by simp [hs, hp, hz], fun a => by simp [hs]⟩
  · have hone : s.cursor = 1 := by rw [hs] at hlim; simp only [spaceTop] at hlim; omega
    exact ⟨s.mem, by simp [hs, hp, hone], fun a => by simp [hs]⟩
  · exact ⟨s.mem, by simp [hp], fun a => by simp [hs]⟩

/-! ## The receive events (R101, R102, R113) -/

/-- The store of a controller receive with room goes on from the byte stored. -/
theorem crStore_room (after : State → State) {s : State} (hw : WalkOk s) (h : s.cursor < s.limit) :
    crStore after s = .next (after (storeByte s)) := by
  rw [crStore, if_neg (by omega), atCursor_of_lt_limit hw h]

/-- The store of a controller receive with no room faults. -/
theorem crStore_full (after : State → State) {s : State} (h : s.limit ≤ s.cursor) :
    crStore after s = .next (raiseFault .bufferOverrun s) := if_pos h

/-- The store of a target receive with room ACKs the byte stored. -/
theorem trStore_room {s : State} (hw : WalkOk s) (h : s.cursor < s.limit) :
    trStore s = .next (issue .ack (storeByte s)) := by
  rw [trStore, if_pos h, atCursor_of_lt_limit hw h]

/-- A target receive with no room NACKs and discards the byte. -/
theorem trStore_full {s : State} (h : s.limit ≤ s.cursor) : trStore s = .next (issue .nack s) :=
  if_neg (by omega)

/-- The ACK decision, as the one command it issues: ACK if more than one byte of room remains (R99). -/
theorem crAckDecide_eq (s : State) :
    crAckDecide s = issue (if s.cursor + 1 < s.limit then .ack else .nack) s := by
  unfold crAckDecide
  by_cases h : s.cursor + 1 < s.limit
  · rw [if_pos (by omega), if_pos h]
  · rw [if_neg (by omega), if_neg h]

/-- Settles O34, by what a store with room does and the two answers of the ACK decision. -/
theorem receiveDataAckStoresTheByte : Obligations.ReceiveDataAckStoresTheByte := by
  unfold Obligations.ReceiveDataAckStoresTheByte
  refine fun s hI => ⟨fun hroom hc => ?_, crStore_full crAckDecide⟩
  obtain ⟨m, hst, hread⟩ := storeByte_room hI hroom hc
  refine ⟨_, crStore_room crAckDecide (walkOk_of_inv hI) hroom, ?_⟩
  rw [hst, crAckDecide_eq]
  refine ⟨?_, hread⟩
  by_cases hnext : s.cursor + 2 < s.limit <;> simp [issue, hnext, Command.code, Nat.add_assoc]

/-- Settles O35, by what a store with room does; the stop path then writes none of its fields. -/
theorem receiveDataNackStoresAndStops : Obligations.ReceiveDataNackStoresAndStops := by
  unfold Obligations.ReceiveDataNackStoresAndStops
  refine fun s hI => ⟨fun hroom hc => ?_, crStore_full (stopThen .kIdle)⟩
  obtain ⟨m, hst, hread⟩ := storeByte_room hI hroom hc
  refine ⟨_, crStore_room (stopThen .kIdle) (walkOk_of_inv hI) hroom, ?_⟩
  rw [hst]
  exact ⟨rfl, hread⟩

/-- Both data events of a target receive take TR_STORE (R118, R119). -/
theorem exec_trStore {i : Instr} (hi : i ∈ [Instr.evTrDataAck, .evTrGcallDataAck]) (s : State) :
    exec i s = trStore s := by
  simp only [List.mem_cons, List.not_mem_nil, or_false] at hi
  rcases hi with rfl | rfl <;> rfl

/-- Settles O40, by what a store with room does; the ACK then writes none of its fields. -/
theorem targetReceiveStoresOrDiscards : Obligations.TargetReceiveStoresOrDiscards := by
  unfold Obligations.TargetReceiveStoresOrDiscards
  intro s i hi hI
  rw [exec_trStore hi]
  refine ⟨fun hroom hc => ?_, trStore_full⟩
  obtain ⟨m, hst, hread⟩ := storeByte_room hI hroom hc
  refine ⟨_, trStore_room (walkOk_of_inv hI) hroom, ?_⟩
  rw [hst]
  exact ⟨rfl, hread⟩

/-! ## CT_SEND (R94 to R96) -/

/-- Both acknowledgements of a controller transmit take CT_SEND (R95, R96). -/
theorem exec_ctSend {i : Instr} (hi : i ∈ [Instr.evCtAddrAck, .evCtDataAck]) (s : State) :
    exec i s = ctSendOrStop (ctAdvance s) := by
  simp only [List.mem_cons, List.not_mem_nil, or_false] at hi
  rcases hi with rfl | rfl <;> rfl

/-- A byte that remains is sent and counted. -/
theorem ctSendOrStop_room {s : State} (hw : WalkOk s) (h : s.cursor < s.limit) :
    ctSendOrStop s = .next
      { issue .data (loadByte s) with transferredCount := countSucc s.params s.transferredCount } := by
  rw [ctSendOrStop, if_pos h, atCursor_of_lt_limit hw h]

/-- With no byte left the stop path is taken. -/
theorem ctSendOrStop_empty {s : State} (h : s.limit ≤ s.cursor) :
    ctSendOrStop s = .next (stopThen .kIdle s) := if_neg (by omega)

/-- An exhausted segment gives way to the next entry. -/
theorem ctAdvance_next {s : State} (hx : s.cursor = s.limit) (hk : s.segmentIndex < s.params.n) :
    ctAdvance s = walkSegment (walkEntry s.iov (s.segmentIndex + 1))
      { s with segmentIndex := s.segmentIndex + 1 } := if_pos ⟨hx, hk⟩

/-- With a byte left, or at the last entry, the walk stays. -/
theorem ctAdvance_stay {s : State} (h : s.cursor < s.limit ∨ s.segmentIndex = s.params.n) :
    ctAdvance s = s := if_neg (by omega)

/-- The entry walked on to, where every entry before it has bytes, is the vector's own. -/
theorem walkEntry_active {iov : List Segment} {k : Nat} {e : Segment} (he : iov[k]? = some e)
    (h : ∀ x ∈ iov.take k, 0 < x.len) : walkEntry iov k = e := by
  have hs : pastSentinel iov k = false := by
    rw [Bool.eq_false_iff, Ne, pastSentinel_iff]
    rintro ⟨x, hx, hz⟩
    exact absurd hz (h x hx).ne'
  simp [walkEntry, hs, iovAt, he]

/-- An empty entry, or one past a sentinel, is walked on to as one with no byte (R65; log 23). -/
theorem walkEntry_empty {iov : List Segment} {k : Nat} {e : Segment} (he : iov[k]? = some e)
    (h : e.len = 0 ∨ ∃ x ∈ iov.take k, x.len = 0) : walkEntry iov k = { e with len := 0 } := by
  have hat : iovAt iov k = e := by simp [iovAt, he]
  rcases walkEntry_cases iov k with ⟨hs, hc⟩ | ⟨-, hc⟩ <;> rw [hc, hat]
  have hz : e.len = 0 := h.resolve_right fun hx => by simp [(pastSentinel_iff iov k).mpr hx] at hs
  rw [← hz]

/-- Settles O28: the three positions of the walk, and at an exhausted segment whether the next entry has
a byte to send. -/
theorem transmitAcksSendTheNextByte : Obligations.TransmitAcksSendTheNextByte := by
  unfold Obligations.TransmitAcksSendTheNextByte
  intro s i hi hI
  rw [exec_ctSend hi]
  obtain ⟨⟨-, -, hcw, -⟩, -, -, ⟨-, hin, -⟩, hw, -, -, ⟨hlo, -⟩, -⟩ := hI
  have counted (hc : s.transferredCount + 1 < 2 ^ (s.params.cw - 1)) :
      countSucc s.params s.transferredCount = s.transferredCount + 1 := countSucc_eq _ _ hcw hlo hc
  refine ⟨fun hroom hc => ?_, fun hx hk e he => ⟨fun hlen hpre hc => ?_, fun hempty => ?_⟩,
    fun hx hk => ?_⟩
  · rw [ctAdvance_stay (.inl hroom), ctSendOrStop_room hw hroom, counted hc]
    rfl
  · rw [ctAdvance_next hx hk, walkEntry_active he hpre]
    obtain ⟨-, -, hinside⟩ := hin e (List.mem_of_getElem? he)
    rw [ctSendOrStop_room ⟨Nat.le_add_right _ _, hinside⟩ (Nat.lt_add_of_pos_right hlen)]
    simp only [walkSegment_params, walkSegment_transferredCount, counted hc]
    rfl
  · rw [ctAdvance_next hx hk, walkEntry_empty he hempty, ctSendOrStop_empty (Nat.le_refl e.base)]
    rfl
  · rw [ctAdvance_stay (.inr hk), ctSendOrStop_empty hx.ge]
    rfl

/-! ## A faulted block (R14, R149) -/

/-- Settles O6: `enabled`, `step` and the end of a run each ask first that no fault is recorded. -/
theorem aFaultedBlockTakesNoStep : Obligations.AFaultedBlockTakesNoStep := by
  unfold Obligations.AFaultedBlockTakesNoStep
  intro s r hr
  refine ⟨fun m => by simp [enabled, hr], by simp [step, hr], ?_⟩
  rintro ⟨-, -, -, hf⟩
  rw [hr] at hf
  cases hf

/-! ## The host's turn (R10, R136, R142) -/

/-- The host's operation is decoded from its port. -/
theorem fetchHostOp_eq (s : State) : fetchHostOp s = decodeHostOp s.params s.port := by
  simp only [fetchHostOp, decode]

/-- `await_completed` is the one operation that holds, and it holds while ACTIVE. -/
theorem callHolds_iff (i : Instr) (s : State) :
    callHolds i s = true ↔ (∃ m, i = .awaitCompleted m) ∧ s.lifecycle = .active := by
  cases i <;> simp [callHolds, awaitHolds]

/-- A hold needs an operation at the port that holds. -/
theorem hostHolds_eq_false {s : State} (h : ∀ i rest, fetchHostOp s = .ok (i, rest) →
    callHolds i s = false) : hostHolds s = false := by
  rw [Bool.eq_false_iff, Ne, hostHolds_iff]
  rintro ⟨-, hl, m, rest, hd⟩
  have := h _ _ hd
  rw [(callHolds_iff _ s).mpr ⟨⟨m, rfl⟩, hl⟩] at this
  cases this

/-- In phase READY and not in a hold the host runs. -/
theorem hostRuns_of_ready {s : State} (hp : s.phase = .ready) (hh : hostHolds s = false) :
    hostRuns s = true := by
  simp [hostRuns, hp, hh]

/-- A turn of the host, in phase READY, with no fault and not in a hold, takes up the bytes at the port. -/
theorem step_host {s : State} {ts : List Turn} (ht : s.turns = .agent .host :: ts)
    (hf : s.fault = none) (hp : s.phase = .ready) (hh : hostHolds s = false) (hport : s.port ≠ []) :
    step s = performHost { s with turns := ts } :=
  step_given_enabled s .host ts hf ht (by simp [enabled, hf, hostRuns_of_ready hp hh, hport])

/-- Such a turn runs the operation that the bytes spell. -/
theorem step_host_ok {s : State} {ts : List Turn} (ht : s.turns = .agent .host :: ts)
    (hf : s.fault = none) (hp : s.phase = .ready) (hh : hostHolds s = false) {i : Instr}
    {rest : List Byte} (hd : decodeHostOp s.params s.port = .ok (i, rest)) :
    step s = exec i (callHostOp i rest { s with turns := ts }) := by
  have hport : s.port ≠ [] := fun h => by rw [h] at hd; cases hd
  have hfetch : fetchHostOp { s with turns := ts } = .ok (i, rest) := (fetchHostOp_eq _).trans hd
  rw [step_host ht hf hp hh hport, performHost, hfetch]

/-- Bytes at the port that spell none are refused in the host's turn (R10, R148). -/
theorem step_host_error {s : State} {ts : List Turn} (ht : s.turns = .agent .host :: ts)
    (hf : s.fault = none) (hp : s.phase = .ready) (hport : s.port ≠ []) {e : DecodeError}
    (hd : decodeHostOp s.params s.port = .error e) : step s = .refused (refusalOf e) := by
  have hh : hostHolds s = false := hostHolds_eq_false fun i rest h => by
    rw [fetchHostOp_eq, hd] at h
    cases h
  have hfetch : fetchHostOp { s with turns := ts } = .error e := (fetchHostOp_eq _).trans hd
  rw [step_host ht hf hp hh hport, performHost, hfetch]

/-- Settles O8: an operation that does not hold is no hold of the host's, so its turn is enabled, and the
arrival at an empty port too. -/
theorem stepRunsTheFetchedHostOperation : Obligations.StepRunsTheFetchedHostOperation := by
  unfold Obligations.StepRunsTheFetchedHostOperation
  refine ⟨fun s ts i rest ht hf hp hd hl => ?_, fun s ts bs ht hf hp hend hport hne => ⟨?_, ?_⟩⟩
  · have hcall : callHolds i s = false := by
      rw [Bool.eq_false_iff, Ne, callHolds_iff]
      exact fun ⟨hm, hact⟩ => hl hm hact
    have hh : hostHolds s = false := hostHolds_eq_false fun j r hj => by
      cases hd.symm.trans ((fetchHostOp_eq s).symm.trans hj)
      exact hcall
    rw [step_host_ok ht hf hp hh hd, callHostOp, if_neg]
    exact Bool.eq_false_iff.mp hcall
  · have hh : hostHolds s = false := hostHolds_eq_false fun j r hj => by
      rw [fetchHostOp_eq, hport] at hj
      cases hj
    exact step_given_enabled s _ ts hf ht
      (by simp [enabled, hf, hostRuns_of_ready hp hh, hend, hport, hne])
  · rintro ⟨-, hend', -, -⟩
    rw [hend] at hend'
    cases hend'

/-- Settles O15: outside a hold the store is enabled, and a write changes the one byte. -/
theorem hostStoreWritesOneByte : Obligations.HostStoreWritesOneByte := by
  unfold Obligations.HostStoreWritesOneByte
  intro s ts a v ht hf hp hmem ha hhold
  have hh : hostHolds s = false := by
    rw [Bool.eq_false_iff, Ne, hostHolds_iff]
    rintro ⟨haw, hl, m, rest, hd⟩
    exact hhold haw hl m rest ((fetchHostOp_eq s).symm.trans hd)
  have he : enabled (.hostStore a v) s = true := by
    simp [enabled, hf, hostRuns_of_ready hp hh, ha]
  refine ⟨_, step_given_enabled s _ ts hf ht he, rfl, fun b => ?_⟩
  by_cases hb : b = a
  · rw [if_pos hb, hb]
    exact memRead_memWrite_same _ _ _ hmem
  · rw [if_neg hb]
    exact memRead_memWrite_other _ _ _ _ hb

/-- A move of the host's that is taken up in a hold passes. -/
theorem step_pass_of_hostHolds {s : State} {ts : List Turn} {m : Move} (hf : s.fault = none)
    (hh : hostHolds s = true) (ht : s.turns = .agent m :: ts)
    (hm : m = .host ∨ (∃ a v, m = .hostStore a v) ∨ ∃ bs, m = .hostProgram bs) :
    step s = .next { s with turns := ts } := by
  obtain ⟨hhost, hstore, hprogram⟩ := hold_disables_host s hh
  refine step_given_pass s m ts hf ht ?_
  rcases hm with rfl | ⟨a, v, rfl⟩ | ⟨bs, rfl⟩
  · exact hhost
  · exact hstore a v
  · exact hprogram bs

/-- Settles O49: called while ACTIVE the operation sets `awaiting` and stays at the port, and from then on
the host is in a hold, where its turns pass. -/
theorem awaitReturnsTheCountOrHolds : Obligations.AwaitReturnsTheCountOrHolds := by
  unfold Obligations.AwaitReturnsTheCountOrHolds
  refine ⟨fun s m hl => by simp [exec, execAwaitCompleted, awaitHolds, hl, hostReturn], ?_⟩
  intro s ts m rest hf hl hd
  have hfetch : fetchHostOp s = .ok (.awaitCompleted m, rest) := (fetchHostOp_eq s).trans hd
  have inHold (haw : s.awaiting = true) : hostHolds s = true :=
    (hostHolds_iff s).mpr ⟨haw, hl, m, rest, hfetch⟩
  refine ⟨fun ht hp => ?_, fun haw => ⟨fun ht => ?_, fun a v ht => ?_, fun bs ht => ?_⟩⟩
  · cases haw : s.awaiting with
    | true =>
      rw [step_pass_of_hostHolds hf (inHold haw) ht (.inl rfl), ← haw]
    | false =>
      have hh : hostHolds s = false := by simp [hostHolds, haw]
      have hcall : callHolds (.awaitCompleted m) { s with turns := ts } = true :=
        (callHolds_iff _ _).mpr ⟨⟨m, rfl⟩, hl⟩
      rw [step_host_ok ht hf hp hh hd, callHostOp, if_pos hcall]
      exact if_pos hcall
  · exact step_pass_of_hostHolds hf (inHold haw) ht (.inl rfl)
  · exact step_pass_of_hostHolds hf (inHold haw) ht (.inr (.inl ⟨a, v, rfl⟩))
  · exact step_pass_of_hostHolds hf (inHold haw) ht (.inr (.inr ⟨bs, rfl⟩))

/-! ## What the host port refuses (R68, R148; log 2) -/

/-- As many bytes as there are digits are taken, whatever they spell. -/
theorem takeBE_append (pre bs : List Byte) (acc : Nat) :
    ∃ v, takeBE pre.length acc (pre ++ bs) = .ok (v, bs) := by
  induction pre generalizing acc with
  | nil => exact ⟨acc, rfl⟩
  | cons b pre ih => exact ih _

/-- The bytes of an operand are taken whole or refused by its width. -/
theorem takeOperand_append_cases {w : Nat} {pre : List Byte} (bs : List Byte)
    (h : pre.length = bytesFor w) :
    (∃ x, takeOperand w (pre ++ bs) = .ok (x, bs)) ∨
      takeOperand w (pre ++ bs) = .error .operandRange := by
  obtain ⟨v, hv⟩ := takeBE_append pre bs 0
  rw [takeOperand, ← h, hv]
  by_cases hw : inWidth w v = true
  · exact .inl ⟨v, if_pos hw⟩
  · exact .inr (if_neg hw)

/-- One byte spells any operand of eight bits. -/
theorem takeOperand_byte (b : Byte) (bs : List Byte) : takeOperand 8 (b :: bs) = .ok (b.toNat, bs) := by
  have hb : b.toNat < 256 := b.isLt
  simp [takeOperand, bytesFor, takeBE, inWidth, hb]

/-- A 7-bit address above 127 is refused. -/
theorem takeOperand_address_high {a : Byte} (bs : List Byte) (h : 128 ≤ a.toNat) :
    takeOperand 7 (a :: bs) = .error .operandRange := by
  simp [takeOperand, bytesFor, takeBE, inWidth, h]

/-- A `buf` outside AW is refused. -/
theorem takeBuf_outside_buf {p : Params} {buf : Nat} (bs : List Byte) (h : OutsideWidth p.aw buf) :
    takeBuf p (putOperand p.aw buf ++ bs) = .error .operandRange := by
  rw [takeBuf, takeOperand_outside _ _ _ h.1 h.2]

/-- A `size` outside LW is refused, whatever `buf` stands before it. -/
theorem takeBuf_outside_size {p : Params} (buf : Nat) {size : Nat} (bs : List Byte)
    (h : OutsideWidth p.lw size) :
    takeBuf p (putOperand p.aw buf ++ (putOperand p.lw size ++ bs)) = .error .operandRange := by
  rcases takeOperand_put_cases p.aw buf (putOperand p.lw size ++ bs) with ⟨x, hx⟩ | hx
  · simp only [takeBuf, hx, takeOperand_outside _ _ _ h.1 h.2]
  · simp only [takeBuf, hx]

/-- A transfer whose buffer is refused is refused, whatever its address byte. -/
theorem decodeTransfer_buf {p : Params} (mk : BitVec 7 → Nat → Nat → Instr) {pre bs : List Byte}
    (hl : pre.length = 1) (h : takeBuf p bs = .error .operandRange) :
    decodeTransfer p mk (pre ++ bs) = .error .operandRange := by
  rcases takeOperand_append_cases (w := 7) bs hl with ⟨x, hx⟩ | hx
  · simp only [decodeTransfer, hx, h]
  · simp only [decodeTransfer, hx]

/-- A transfer with a header whose buffer is refused is refused, whatever its address and header. -/
theorem decodeHeaderTransfer_buf {p : Params} (w : Nat) (mk : BitVec 7 → BitVec w → Nat → Nat → Instr)
    {pre bs : List Byte} (hl : pre.length = bytesFor w + 1)
    (h : takeBuf p bs = .error .operandRange) :
    decodeHeaderTransfer p w mk (pre ++ bs) = .error .operandRange := by
  obtain ⟨a, hd, rfl⟩ := List.exists_cons_of_length_eq_add_one hl
  rw [List.length_cons, Nat.add_right_cancel_iff] at hl
  rcases takeOperand_append_cases (w := 7) (pre := [a]) (hd ++ bs) rfl with ⟨x, hx⟩ | hx <;>
    rw [List.singleton_append] at hx
  · rcases takeOperand_append_cases bs hl with ⟨y, hy⟩ | hy
    · simp only [decodeHeaderTransfer, List.cons_append, hx, hy, h]
    · simp only [decodeHeaderTransfer, List.cons_append, hx, hy]
  · simp only [decodeHeaderTransfer, List.cons_append, hx]

/-- Each operation with a buffer is refused with it: its opcode, and how many bytes stand before `buf`. -/
theorem decodeHostOp_buf {p : Params} {op : Byte} {pre bs : List Byte}
    (hop : (op, pre.length) ∈ [((4 : Byte), 1), (5, 2), (6, 3), (7, 1), (9, 0), (10, 0)])
    (h : takeBuf p bs = .error .operandRange) :
    decodeHostOp p (op :: (pre ++ bs)) = .error .operandRange := by
  simp only [List.mem_cons, Prod.mk.injEq, List.not_mem_nil, or_false] at hop
  rcases hop with ⟨rfl, hl⟩ | ⟨rfl, hl⟩ | ⟨rfl, hl⟩ | ⟨rfl, hl⟩ | ⟨rfl, hl⟩ | ⟨rfl, hl⟩
  · exact decodeTransfer_buf .writeRequest hl h
  · exact decodeHeaderTransfer_buf 8 .writeRequestH8 hl h
  · exact decodeHeaderTransfer_buf 16 .writeRequestH16 hl h
  · exact decodeTransfer_buf .readRequest hl h
  all_goals
    obtain rfl := List.length_eq_zero_iff.mp hl
    change decodeSlot p _ bs = _
    rw [decodeSlot, h]

/-- An address above 127 is refused in each operation that begins with one. -/
theorem decodeHostOp_address {p : Params} {op a : Byte} (bs : List Byte)
    (hop : op ∈ [(4 : Byte), 5, 6, 7]) (ha : 128 ≤ a.toNat) :
    decodeHostOp p (op :: a :: bs) = .error .operandRange := by
  have hx := takeOperand_address_high bs ha
  simp only [List.mem_cons, List.not_mem_nil, or_false] at hop
  rcases hop with rfl | rfl | rfl | rfl
  · change decodeTransfer p .writeRequest (a :: bs) = _
    rw [decodeTransfer, hx]
  · change decodeHeaderTransfer p 8 .writeRequestH8 (a :: bs) = _
    rw [decodeHeaderTransfer, hx]
  · change decodeHeaderTransfer p 16 .writeRequestH16 (a :: bs) = _
    rw [decodeHeaderTransfer, hx]
  · change decodeTransfer p .readRequest (a :: bs) = _
    rw [decodeTransfer, hx]

/-- The opcodes that spell no operation. -/
theorem decodeHostOp_reserved {p : Params} {op : Byte} (bs : List Byte)
    (h : op.toNat = 0 ∨ 12 ≤ op.toNat) : decodeHostOp p (op :: bs) = .error .reservedOpcode := by
  simp only [decodeHostOp]
  split
  case h_12 => rfl
  all_goals omega

/-- A space byte above 1 is refused. -/
theorem takeSegment_space {p : Params} {sp : Byte} (bs : List Byte) (h : 2 ≤ sp.toNat) :
    takeSegment p (sp :: bs) = .error .operandRange := by
  obtain ⟨k, hk⟩ : ∃ k, sp.toNat = k + 2 := ⟨sp.toNat - 2, by omega⟩
  simp only [takeSegment, takeOperand_byte, hk, spaceOf]

/-- An entry whose base or length is refused is refused, whatever its space byte. -/
theorem takeSegment_buf {p : Params} (sp : Byte) {bs : List Byte}
    (h : takeBuf p bs = .error .operandRange) :
    takeSegment p (sp :: bs) = .error .operandRange := by
  simp only [takeSegment, takeOperand_byte, h]
  cases spaceOf sp.toNat <;> rfl

/-- A vector whose next entry is refused is refused. -/
theorem takeVector_segment {p : Params} (k : Nat) {bs : List Byte}
    (h : takeSegment p bs = .error .operandRange) :
    takeVector p (k + 1) bs = .error .operandRange := by
  simp only [takeVector, h]

/-- A mark of a next entry above 1 is refused. -/
theorem takeVector_mark {p : Params} (k : Nat) {e : Segment} {more : Byte} (bs : List Byte)
    (he : e.wellFormed p = true) (h : 2 ≤ more.toNat) :
    takeVector p (k + 1) (putSegment p e ++ more :: bs) = .error .operandRange := by
  obtain ⟨j, hj⟩ : ∃ j, more.toNat = j + 2 := ⟨more.toNat - 2, by omega⟩
  simp only [takeVector, takeSegment_putSegment p e _ he, takeOperand_byte, hj]

/-- A request is refused where its vector is, after any entries that are well formed. -/
theorem decodeHostOp_vector {p : Params} (ab : Byte) {vec : List Segment} {k : Nat} {bs : List Byte}
    (hk : vec.length + k = p.n + 1) (hwf : ∀ e ∈ vec, e.wellFormed p = true)
    (h : takeVector p k bs = .error .operandRange) :
    decodeHostOp p ((3 : Byte) :: ab :: (vec.flatMap (putMore p) ++ bs)) = .error .operandRange := by
  have hvec := takeVector_putMore p vec k bs hwf
  rw [h, hk] at hvec
  change decodeRequest p _ = _
  simp only [decodeRequest, takeOperand_byte, hvec]

/-- A notify target outside RECIPIENT is refused. -/
theorem decodeHostOp_notify {p : Params} {notify : Nat} (bs : List Byte)
    (h : OutsideWidth p.recipientBits notify) :
    decodeHostOp p ((1 : Byte) :: (putOperand p.recipientBits notify ++ bs)) =
      .error .operandRange := by
  change decodeBegin p _ = _
  simp only [decodeBegin, takeOperand_outside _ _ _ h.1 h.2]

/-- A sleep mode outside SLEEP_MODES is refused. -/
theorem decodeHostOp_sleepMode {p : Params} {mode : Nat} (bs : List Byte)
    (h : OutsideWidth p.sleepBits mode) :
    decodeHostOp p ((8 : Byte) :: (putOperand p.sleepBits mode ++ bs)) = .error .operandRange := by
  change decodeAwait p _ = _
  simp only [decodeAwait, takeOperand_outside _ _ _ h.1 h.2]

/-- Settles O22: the decoder refuses each of the forms, and the host's turn refuses what it refuses. -/
theorem operationsThatSpellNoneAreRefused : Obligations.OperationsThatSpellNoneAreRefused := by
  unfold Obligations.OperationsThatSpellNoneAreRefused
  intro s ts ht hf hp
  have refused {op : Byte} {bs : List Byte} {e : DecodeError} (hport : s.port = op :: bs)
      (hd : decodeHostOp s.params (op :: bs) = .error e) : step s = .refused (refusalOf e) :=
    step_host_error ht hf hp (by simp [hport]) (hport ▸ hd)
  refine ⟨?_, ?_, ?_, ?_, ?_, ?_, ?_⟩
  · exact fun op bs hport h => refused hport (decodeHostOp_reserved bs h)
  · exact fun op a bs hport hop ha => refused hport (decodeHostOp_address bs hop ha)
  · exact fun op pre buf bs hop hw hport =>
      refused hport (decodeHostOp_buf hop (takeBuf_outside_buf bs hw))
  · exact fun op pre buf size bs hop hw hport =>
      refused hport (decodeHostOp_buf hop (takeBuf_outside_size buf bs hw))
  · intro ab vec bs hport hwf
    have vector {k : Nat} (hk : vec.length + k = s.params.n + 1)
        (h : takeVector s.params k bs = .error .operandRange) : step s = .refused .operandRange :=
      refused hport (decodeHostOp_vector ab hk hwf h)
    refine ⟨fun hlen => vector (k := 0) hlen rfl, fun hlen => ?_⟩
    obtain ⟨k, hk⟩ : ∃ k, vec.length + (k + 1) = s.params.n + 1 := ⟨s.params.n - vec.length, by omega⟩
    refine ⟨?_, ?_, ?_, ?_⟩
    · rintro sp rest rfl hsp
      exact vector hk (takeVector_segment k (takeSegment_space rest hsp))
    · rintro sp base rest rfl hw
      exact vector hk (takeVector_segment k (takeSegment_buf sp (takeBuf_outside_buf rest hw)))
    · rintro sp base len rest rfl hw
      exact vector hk (takeVector_segment k (takeSegment_buf sp (takeBuf_outside_size base rest hw)))
    · rintro e more rest rfl he hmore
      exact vector hk (takeVector_mark k rest he hmore)
  · exact fun notify bs hport hw => refused hport (decodeHostOp_notify bs hw)
  · exact fun mode bs hport hw => refused hport (decodeHostOp_sleepMode bs hw)

end Sys2Proof.Machine
end

section
/-!
PROOFS. The statements that cite spec/10_state.md: what one instruction does to CMD, the logs, the fault
record, the memories and the lifecycle, each said once per interface; the invariant, operation by operation;
the sequencer's turn and the encoded values.
-/

namespace Sys2Proof.Machine

variable {s u : State}

/-! ## The shared actions, as updates of few fields -/

/-- The advance writes the walk and the segment index alone (R94). -/
theorem ctAdvance_eq (s : State) : ∃ k sp c l,
    ctAdvance s = { s with segmentIndex := k, curSpace := sp, cursor := c, limit := l } := by
  rcases ctAdvance_cases s with ⟨-, -, h⟩ | ⟨-, h⟩
  · exact ⟨_, _, _, _, h⟩
  · exact ⟨_, _, _, _, h⟩

/-- A resume leaves ACTIVE (R90). -/
theorem resume_lifecycle_ne_active (k : Continuation) (s : State) :
    (resume k s).lifecycle ≠ .active := by
  rcases resume_cases s k with ⟨-, h⟩ | ⟨-, h⟩ | ⟨-, -, h⟩ | ⟨-, -, -, h⟩ | ⟨-, -, -, h⟩ <;> rw [h] <;>
    simp

/-! ## One command per event (R20, R39, R40, R88) -/

/-- One command takes `s` to `u`, as CMD, INTF, the two logs and the fault record tell. -/
def IssuesOne (s u : State) : Prop :=
  ∃ c : Command, u.cmd = c.code ∧ u.busLog = s.busLog ++ [(c, u.data)] ∧ flagIntf u.flags = false ∧
    u.hostLog = s.hostLog ∧ u.fault = s.fault

/-- `issue`, from a state with the logs and the fault record of `s`, is one command. -/
theorem issuesOne_issue (c : Command) {s v : State} (hb : v.busLog = s.busLog)
    (hh : v.hostLog = s.hostLog) (hf : v.fault = s.fault) : IssuesOne s (issue c v) :=
  ⟨c, rfl, by simp [hb], by simp, hh, hf⟩

/-- An event issues one command or faults for want of room, and then writes nothing else (R88, R145). -/
theorem exec_event_issuesOne {i : Instr} {s u : State} (hf : i.format = .status)
    (h : exec i s = .next u) : IssuesOne s u ∨ u = raiseFault .bufferOverrun s := by
  have stored (c : Command) : IssuesOne s (issue c (storeByte s)) :=
    issuesOne_issue c (by simp) (by simp) (by simp)
  rcases exec_event i s u hf h with ⟨-, rfl⟩ | ⟨-, rfl⟩ | ⟨-, hsend⟩ | ⟨-, k, rfl⟩ | ⟨-, rfl⟩ |
    ⟨-, hstore⟩ | ⟨-, hstore⟩ | ⟨-, hsend⟩ | ⟨-, hsend⟩ | ⟨-, rfl⟩ | ⟨-, rfl⟩ | ⟨-, hstore⟩ | ⟨-, rfl⟩
  · exact .inl (issuesOne_issue .data rfl rfl rfl)
  · exact .inl (issuesOne_issue .idle (v := s) rfl rfl rfl)
  · obtain ⟨hb, hh, hfault⟩ : (ctAdvance s).busLog = s.busLog ∧ (ctAdvance s).hostLog = s.hostLog ∧
        (ctAdvance s).fault = s.fault := by
      obtain ⟨k, sp, c, l, hadv⟩ := ctAdvance_eq s
      rw [hadv]
      exact ⟨rfl, rfl, rfl⟩
    rcases ctSendOrStop_next _ _ hsend with ⟨-, -, rfl⟩ | ⟨-, rfl⟩
    · exact .inl (issuesOne_issue .data (v := loadByte (ctAdvance s)) hb hh hfault)
    · exact .inl (issuesOne_issue .stop (v := ctAdvance s) hb hh hfault)
  · exact .inl (issuesOne_issue .stop (v := s) rfl rfl rfl)
  · rw [crAckDecide_eq]
    exact .inl (issuesOne_issue _ rfl rfl rfl)
  · rcases crStore_next _ _ _ hstore with ⟨-, -, rfl⟩ | ⟨-, rfl⟩
    · rw [crAckDecide_eq]
      exact .inl (stored _)
    · exact .inr rfl
  · rcases crStore_next _ _ _ hstore with ⟨-, -, rfl⟩ | ⟨-, rfl⟩
    · exact .inl (stored .stop)
    · exact .inr rfl
  · rcases ttSend_next _ _ hsend with ⟨-, -, rfl⟩ | ⟨-, rfl⟩
    · exact .inl (issuesOne_issue .ack rfl rfl rfl)
    · exact .inl (issuesOne_issue .nack rfl rfl rfl)
  · rcases ttSend_next _ _ hsend with ⟨-, -, rfl⟩ | ⟨-, rfl⟩
    · exact .inl (issuesOne_issue .ack rfl rfl rfl)
    · exact .inl (issuesOne_issue .nack rfl rfl rfl)
  · exact .inl (issuesOne_issue .ack (v := s) rfl rfl rfl)
  · exact .inl (issuesOne_issue .ack rfl rfl rfl)
  · rcases trStore_next _ _ hstore with ⟨-, -, rfl⟩ | ⟨-, rfl⟩
    · exact .inl (stored .ack)
    · exact .inl (issuesOne_issue .nack rfl rfl rfl)
  · exact .inl (issuesOne_issue .idle rfl rfl rfl)

/-- Configuring by an accepted `begin` leaves the fault record. -/
theorem configure_fault (a : Byte) (s : State) : (configure a s).fault = s.fault := by
  rcases configure_cases s a with ⟨-, h⟩ | ⟨-, h⟩ <;> rw [h]

/-- A host operation keeps the fault record or raises a reason and writes nothing else; it keeps CMD or
issues a command (R20, R39, R145). -/
theorem exec_hostOp_fault_cmd {i : Instr} {s u : State} (hf : i.format = .hostOp)
    (h : exec i s = .next u) :
    (u.fault = s.fault ∨ ∃ r, u = raiseFault r s) ∧ (u.cmd = s.cmd ∨ ∃ c : Command, u.cmd = c.code) := by
  rcases exec_hostOp i s u hf h with ⟨rfl, -⟩ | ⟨r, rfl, -⟩ | ⟨r, rfl⟩ | ⟨n, a, -, -, rfl⟩ |
    ⟨-, -, rfl⟩ | ⟨-, -, ab, vec, h0, h1, -, -, rfl⟩ | ⟨b, n, -, -, rfl⟩ | ⟨b, n, -, -, rfl⟩ |
    ⟨-, -, rfl⟩
  case inr.inr.inl => exact ⟨.inr ⟨r, rfl⟩, .inl rfl⟩
  case inr.inr.inr.inl => exact ⟨.inl (configure_fault a _), .inr ⟨.idle, rfl⟩⟩
  case inr.inr.inr.inr.inr.inl => exact ⟨.inl rfl, .inr ⟨.start, rfl⟩⟩
  all_goals exact ⟨.inl rfl, .inl rfl⟩

/-- Settles O7: an event raises or keeps the record, a host operation too, and a step needs the record
empty. -/
theorem noInstructionClearsTheFault : Obligations.NoInstructionClearsTheFault := by
  unfold Obligations.NoInstructionClearsTheFault
  refine ⟨rfl, fun i s u h => ?_, fun s u hf h => hf (step_cases s u h).1⟩
  cases hfmt : i.format with
  | cmd =>
    obtain ⟨c, rfl⟩ := exec_command i s u hfmt h
    exact .inl rfl
  | status =>
    rcases exec_event_issuesOne hfmt h with ⟨c, -, -, -, -, hfault⟩ | hraise
    · exact .inl hfault
    · exact .inr ⟨_, hraise⟩
  | hostOp => exact (exec_hostOp_fault_cmd hfmt h).1

/-- The six commands are the values 0 to 5 (R61). -/
theorem command_code_le (c : Command) : c.code.toNat ≤ 5 := by
  cases c <;> decide

/-- Settles O25: the decoder has no command above 5, and an instruction leaves CMD or issues a command. -/
theorem noReservedCommandReachesCmd : Obligations.NoReservedCommandReachesCmd := by
  unfold Obligations.NoReservedCommandReachesCmd
  refine ⟨fun b hb => ?_, fun i s u h => ?_⟩
  · unfold decodeCommand
    split
    case h_7 => rfl
    all_goals omega
  · have issued (c : Command) (hc : u.cmd = c.code) : u.cmd.toNat ≤ 5 := hc ▸ command_code_le c
    cases hfmt : i.format with
    | cmd =>
      obtain ⟨c, rfl⟩ := exec_command i s u hfmt h
      exact .inr (issued c rfl)
    | status =>
      rcases exec_event_issuesOne hfmt h with ⟨c, hc, -⟩ | hraise
      · exact .inr (issued c hc)
      · exact .inl (hraise ▸ rfl)
    | hostOp => exact (exec_hostOp_fault_cmd hfmt h).2.imp_right fun ⟨c, hc⟩ => issued c hc

/-! ## Data memory and the header store (R34, R44, R153) -/

/-- The events that store a byte received (R101, R102, R118, R119). -/
def receiveEvents : List Instr := [.evCrDataAck, .evCrDataNack, .evTrDataAck, .evTrGcallDataAck]

/-- An event leaves data memory and the header store, or is a receive event with room that stores a byte
in one of them. -/
theorem exec_event_store {i : Instr} {s u : State} (hf : i.format = .status) (h : exec i s = .next u) :
    (u.mem = s.mem ∧ u.hdr0 = s.hdr0 ∧ u.hdr1 = s.hdr1) ∨
      (i ∈ receiveEvents ∧ s.cursor < s.limit ∧
        u.mem = (segWrite s.curSpace s.cursor s.data s).mem ∧
        u.hdr0 = (segWrite s.curSpace s.cursor s.data s).hdr0 ∧
        u.hdr1 = (segWrite s.curSpace s.cursor s.data s).hdr1) := by
  rcases exec_event i s u hf h with ⟨-, rfl⟩ | ⟨-, rfl⟩ | ⟨-, hsend⟩ | ⟨-, k, rfl⟩ | ⟨-, rfl⟩ |
    ⟨rfl, hstore⟩ | ⟨rfl, hstore⟩ | ⟨-, hsend⟩ | ⟨-, hsend⟩ | ⟨-, rfl⟩ | ⟨-, rfl⟩ | ⟨hi, hstore⟩ |
    ⟨-, rfl⟩
  · exact .inl ⟨rfl, rfl, rfl⟩
  · exact .inl ⟨rfl, rfl, rfl⟩
  · obtain ⟨k, sp, c, l, hadv⟩ := ctAdvance_eq s
    rw [hadv] at hsend
    rcases ctSendOrStop_next _ _ hsend with ⟨-, -, rfl⟩ | ⟨-, rfl⟩ <;> exact .inl ⟨rfl, rfl, rfl⟩
  · exact .inl ⟨rfl, rfl, rfl⟩
  · rw [crAckDecide_eq]
    exact .inl ⟨rfl, rfl, rfl⟩
  · rcases crStore_next _ _ _ hstore with ⟨hroom, -, rfl⟩ | ⟨-, rfl⟩
    · rw [crAckDecide_eq]
      exact .inr ⟨by decide, hroom, rfl, rfl, rfl⟩
    · exact .inl ⟨rfl, rfl, rfl⟩
  · rcases crStore_next _ _ _ hstore with ⟨hroom, -, rfl⟩ | ⟨-, rfl⟩
    · exact .inr ⟨by decide, hroom, rfl, rfl, rfl⟩
    · exact .inl ⟨rfl, rfl, rfl⟩
  · rcases ttSend_next _ _ hsend with ⟨-, -, rfl⟩ | ⟨-, rfl⟩ <;> exact .inl ⟨rfl, rfl, rfl⟩
  · rcases ttSend_next _ _ hsend with ⟨-, -, rfl⟩ | ⟨-, rfl⟩ <;> exact .inl ⟨rfl, rfl, rfl⟩
  · exact .inl ⟨rfl, rfl, rfl⟩
  · exact .inl ⟨rfl, rfl, rfl⟩
  · rcases trStore_next _ _ hstore with ⟨hroom, -, rfl⟩ | ⟨-, rfl⟩
    · exact .inr ⟨List.mem_cons_of_mem _ (List.mem_cons_of_mem _ hi), hroom, rfl, rfl, rfl⟩
    · exact .inl ⟨rfl, rfl, rfl⟩
  · exact .inl ⟨rfl, rfl, rfl⟩

/-- A host operation leaves data memory, and the header store unless it is an accepted request with a
header (R34, R133, R134). -/
theorem exec_hostOp_store {i : Instr} {s u : State} (hf : i.format = .hostOp) (h : exec i s = .next u) :
    u.mem = s.mem ∧ ((u.hdr0 = s.hdr0 ∧ u.hdr1 = s.hdr1) ∨
      (headerRequest i ∧ u.hostLog = s.hostLog ++ [.result true])) := by
  rcases exec_hostOp i s u hf h with ⟨rfl, -⟩ | ⟨r, rfl, -⟩ | ⟨r, rfl⟩ | ⟨n, a, -, -, rfl⟩ |
    ⟨-, -, rfl⟩ | ⟨-, -, ab, vec, h0, h1, -, hhdr, rfl⟩ | ⟨b, n, -, -, rfl⟩ | ⟨b, n, -, -, rfl⟩ |
    ⟨-, -, rfl⟩
  case inr.inr.inr.inl =>
    rcases configure_cases { s with notifyTarget := n, ownAddress := a.setWidth 7 } a with
      ⟨-, hc⟩ | ⟨-, hc⟩ <;> rw [hc] <;> exact ⟨rfl, .inl ⟨rfl, rfl⟩⟩
  case inr.inr.inr.inr.inr.inl =>
    exact ⟨rfl, hhdr.imp (fun ⟨_, h0s, h1s⟩ => ⟨h0s, h1s⟩) (fun ⟨hreq, _⟩ => ⟨hreq, rfl⟩)⟩
  all_goals exact ⟨rfl, .inl ⟨rfl, rfl⟩⟩

/-- The requests with a header are the two header forms of `write_request`. -/
theorem headerRequest_iff (i : Instr) : headerRequest i ↔
    (∃ a h b n, i = .writeRequestH8 a h b n) ∨ ∃ a h b n, i = .writeRequestH16 a h b n := by
  cases i <;> simp [headerRequest]

/-- Settles O56: the store of a receive event is a write of DATA through the cursor. -/
theorem onlyReceiveEventsStoreInMemory : Obligations.OnlyReceiveEventsStoreInMemory := by
  unfold Obligations.OnlyReceiveEventsStoreInMemory
  refine ⟨fun i s u a hwf h => ?_, fun i s u h => ?_⟩
  · have kept (hm : u.mem = s.mem) : memRead u.mem a = memRead s.mem a := hm ▸ rfl
    cases hfmt : i.format with
    | cmd =>
      obtain ⟨c, rfl⟩ := exec_command i s u hfmt h
      exact .inl (kept rfl)
    | hostOp => exact .inl (kept (exec_hostOp_store hfmt h).1)
    | status =>
      rcases exec_event_store hfmt h with ⟨hm, -⟩ | ⟨hi, hroom, hm, -⟩
      · exact .inl (kept hm)
      · rcases segWrite_cases s.curSpace s.cursor s.data s with
          ⟨hsp, hw⟩ | ⟨-, -, -, hw⟩ | ⟨-, -, -, hw⟩ | ⟨-, -, hw⟩ <;> rw [hw] at hm
        · rw [hm]
          by_cases ha : a = s.cursor
          · exact .inr ⟨hi, hsp, ha, hroom, ha ▸ memRead_memWrite_same _ _ _ hwf⟩
          · exact .inl (memRead_memWrite_other _ _ _ _ ha)
        all_goals exact .inl (kept hm)
  · cases hfmt : i.format with
    | cmd =>
      obtain ⟨c, rfl⟩ := exec_command i s u hfmt h
      exact .inl ⟨rfl, rfl⟩
    | hostOp =>
      rcases (exec_hostOp_store hfmt h).2 with hkeep | ⟨hreq, hlog⟩
      · exact .inl hkeep
      · exact .inr (.inl ⟨(headerRequest_iff i).mp hreq, hlog⟩)
    | status =>
      rcases exec_event_store hfmt h with ⟨-, hkeep⟩ | ⟨hi, -, -, h0, h1⟩
      · exact .inl hkeep
      · rcases segWrite_cases s.curSpace s.cursor s.data s with
          ⟨-, hw⟩ | ⟨hsp, hp, -⟩ | ⟨hsp, hp, -⟩ | ⟨-, -, hw⟩
        · exact .inl (by rw [h0, h1, hw]; exact ⟨rfl, rfl⟩)
        · exact .inr (.inr ⟨hi, hsp, hp⟩)
        · exact .inr (.inr ⟨hi, hsp, hp⟩)
        · exact .inl (by rw [h0, h1, hw]; exact ⟨rfl, rfl⟩)

/-! ## What the invariant's parts hold of -/

/-- The count 0 is in the format. -/
theorem countInRange_zero (p : Params) : CountInRange p 0 := by
  have pos : (0 : Int) < 2 ^ (p.cw - 1) := by positivity
  exact ⟨by omega, pos⟩

/-- The count -1 of a failed transfer is in the format. -/
theorem countInRange_neg_one (p : Params) : CountInRange p (-1) := by
  have pos : (0 : Int) < 2 ^ (p.cw - 1) := by positivity
  exact ⟨by omega, by omega⟩

/-- A sentinel lies inside its space. -/
theorem segmentInside_sentinel (p : Params) : SegmentInside p Segment.sentinel := by
  simp [SegmentInside, Segment.sentinel]

/-- Every entry read from a vector lies inside its space, past the vector's end too (log 17). -/
theorem segmentInside_iovAt {p : Params} {iov : List Segment} (h : ∀ e ∈ iov, SegmentInside p e)
    (k : Nat) : SegmentInside p (iovAt iov k) := by
  unfold iovAt
  by_cases hk : k < iov.length
  · rw [List.getD_eq_getElem _ _ hk]
    exact h _ (List.getElem_mem hk)
  · rw [List.getD_eq_default _ _ (Nat.not_lt.mp hk)]
    exact segmentInside_sentinel p

/-- The entry that a transmit walks on to lies inside its space (log 23). -/
theorem walkEntry_inside {p : Params} {iov : List Segment} (h : ∀ e ∈ iov, SegmentInside p e) (k : Nat) :
    (walkEntry iov k).base + (walkEntry iov k).len ≤ spaceTop p (walkEntry iov k).space := by
  obtain ⟨-, -, hin⟩ := segmentInside_iovAt h k
  rcases walkEntry_cases iov k with ⟨-, hc⟩ | ⟨-, hc⟩ <;> rw [hc]
  · exact hin
  · exact Nat.le_trans (Nat.le_add_right _ _) hin

/-- A filter value leaves TADDR.GCE clear (R22, R64). -/
theorem filterValue_gce (a : BitVec 7) : filterValue a &&& 0x01 = 0 := by
  revert a
  decide

/-- A STATUS written as its code leaves the reserved bits clear (R19). -/
theorem status_append_reserved (c : BitVec 5) : (c ++ (0 : BitVec 3)) &&& (0x07 : Byte) = 0 := by
  revert c
  decide

/-- What a write leaves listed lies inside the address space. -/
theorem memWrite_inside {m : Memory} {a top : Nat} (v : Byte) (h : ∀ c ∈ m, c.1 < top) (ha : a < top) :
    ∀ c ∈ memWrite m a v, c.1 < top := by
  intro c hc
  rcases mem_memWrite m a v c hc with hca | hcm
  · exact hca ▸ ha
  · exact h c hcm

/-! ## Reset (R159) -/

/-- The invariant holds after reset at every legal setting of the parameters. -/
theorem resetWith_inv {p : Params} (hp : p.wf) : Inv (State.resetWith p) := by
  have hz (e : Segment) (he : e ∈ List.replicate (p.n + 1) Segment.sentinel) : e = Segment.sentinel :=
    List.eq_of_mem_replicate he
  refine ⟨hp, by simp [RegistersOk, State.resetWith], rfl,
    ⟨List.length_replicate, fun e he => ?_, ?_, Nat.zero_le _⟩,
    ⟨Nat.le_refl _, Nat.zero_le _⟩, ?_, ?_, countInRange_zero p, ⟨fun _ => rfl, nofun, countInRange_zero p⟩,
    ⟨Nat.two_pow_pos _, Nat.two_pow_pos _⟩, ⟨⟨.nil, nofun⟩, nofun⟩⟩
  · exact hz e he ▸ segmentInside_sentinel p
  · exact ⟨_, List.mem_replicate.mpr ⟨by simp, rfl⟩, rfl⟩
  all_goals exact ⟨Nat.two_pow_pos _, Nat.zero_le _, Nat.zero_le _⟩

/-- Settles O2: the defaults are a legal setting. -/
theorem invariantHoldsAtReset : Obligations.InvariantHoldsAtReset := by
  unfold Obligations.InvariantHoldsAtReset
  exact ⟨resetWith_inv (by decide), fun p => resetWith_inv⟩

/-! ## Each operation keeps the invariant -/

theorem paramsWf_of_inv (h : Inv s) : s.params.wf := by
  obtain ⟨hp, -⟩ := h
  exact hp

theorem slotsOk_of_inv (h : Inv s) : SlotOk s.params s.readSlot ∧ SlotOk s.params s.writeSlot := by
  obtain ⟨-, -, -, -, -, hread, hwrite, -⟩ := h
  exact ⟨hread, hwrite⟩

/-- A command is logged as it is written to CMD, and leaves FLAGS[7:2] clear. -/
theorem inv_issue (c : Command) (h : Inv s) : Inv (issue c s) := by
  obtain ⟨hp, ⟨hst, hta, hct, -⟩, -, rest⟩ := h
  exact ⟨hp, ⟨hst, hta, hct, flagsWord_reserved _ _⟩, by simp [CommandLogged], rest⟩

/-- The walk moves inside a space. -/
theorem inv_walk {sp : Space} {c l : Nat} (hc : c ≤ l) (hl : l ≤ spaceTop s.params sp) (h : Inv s) :
    Inv { s with curSpace := sp, cursor := c, limit := l } := by
  obtain ⟨hp, hr, hl', hv, -, rest⟩ := h
  exact ⟨hp, hr, hl', hv, ⟨hc, hl⟩, rest⟩

/-- The count is written with a value of its format. -/
theorem inv_count {c : Int} (hc : CountInRange s.params c) (h : Inv s) :
    Inv { s with transferredCount := c } := by
  obtain ⟨hp, hr, hl, hv, hw, hrs, hws, -, rest⟩ := h
  exact ⟨hp, hr, hl, hv, hw, hrs, hws, hc, rest⟩

/-- The count goes up within its format. -/
theorem inv_countSucc (h : Inv s) :
    Inv { s with transferredCount := countSucc s.params s.transferredCount } := by
  obtain ⟨-, -, hcw, -⟩ := paramsWf_of_inv h
  exact inv_count (countSucc_range _ _ hcw) h

/-- A byte is written to data memory inside the address space. -/
theorem inv_memWrite {a : Nat} (v : Byte) (ha : a < 2 ^ s.params.aw) (h : Inv s) :
    Inv { s with mem := memWrite s.mem a v } := by
  obtain ⟨hp, hr, hl, hv, hw, hrs, hws, hc, hn, hrec, hwf, hin⟩ := h
  exact ⟨hp, hr, hl, hv, hw, hrs, hws, hc, hn, hrec, memWrite_wf _ _ _ hwf, memWrite_inside v hin ha⟩

/-- A byte is written through the cursor inside its space. -/
theorem inv_segWrite {sp : Space} {a : Nat} (v : Byte) (ha : a < spaceTop s.params sp) (h : Inv s) :
    Inv (segWrite sp a v s) := by
  rcases segWrite_cases sp a v s with ⟨rfl, hw⟩ | ⟨-, -, -, hw⟩ | ⟨-, -, -, hw⟩ | ⟨-, -, hw⟩ <;> rw [hw]
  · exact inv_memWrite v ha h
  all_goals exact h

/-- A byte is stored at the cursor, where one of room is left. -/
theorem inv_storeByte (hroom : s.cursor < s.limit) (h : Inv s) : Inv (storeByte s) := by
  obtain ⟨-, hlim⟩ := walkOk_of_inv h
  have written := inv_segWrite s.data (Nat.lt_of_lt_of_le hroom hlim) h
  have counted := inv_countSucc (inv_walk (c := s.cursor + 1) (l := s.limit) (sp := s.curSpace)
    hroom (by simpa using hlim) written)
  unfold storeByte
  simpa using counted

/-- A byte is loaded from the cursor, where one is left. -/
theorem inv_loadByte (hroom : s.cursor < s.limit) (h : Inv s) : Inv (loadByte s) :=
  inv_walk (Nat.succ_le_of_lt hroom) (walkOk_of_inv h).2 h

/-- The walk of a transmit moves on to the next entry. -/
theorem inv_ctAdvance (h : Inv s) : Inv (ctAdvance s) := by
  rcases ctAdvance_cases s with ⟨-, hk, hc⟩ | ⟨-, hc⟩ <;> rw [hc]
  · obtain ⟨hp, hr, hl, ⟨hlen, hin, hz, -⟩, hw, rest⟩ := h
    exact inv_walk (s := { s with segmentIndex := s.segmentIndex + 1 }) (Nat.le_add_right _ _)
      (walkEntry_inside hin _) ⟨hp, hr, hl, ⟨hlen, hin, hz, hk⟩, hw, rest⟩
  · exact h

/-- A selection as a target walks a slot. -/
theorem inv_selectTarget (role : Role) {slot : Slot} (hs : SlotOk s.params slot) (h : Inv s) :
    Inv (selectTarget role slot s) := by
  obtain ⟨-, hend, -⟩ := hs
  exact inv_count (countInRange_zero _) (inv_walk (sp := .mem) (Nat.le_add_right _ _) hend h)

theorem inv_crAckDecide (h : Inv s) : Inv (crAckDecide s) := by
  rw [crAckDecide_eq]
  exact inv_issue _ h

theorem inv_stopThen (k : Continuation) (h : Inv s) : Inv (stopThen k s) := (inv_issue .stop h :)

/-- A filter value is written to TADDR. -/
theorem inv_taddr {t : Byte} (ht : t &&& 0x01 = 0) (h : Inv s) : Inv { s with taddr := t } := by
  obtain ⟨hp, ⟨hst, -, hct, hfl⟩, rest⟩ := h
  exact ⟨hp, ⟨hst, ht, hct, hfl⟩, rest⟩

/-- CTRL is written with its reserved bits clear. -/
theorem inv_ctrl {c : Byte} (hc : c &&& 0xF8 = 0) (h : Inv s) : Inv { s with ctrl := c } := by
  obtain ⟨hp, ⟨hst, hta, -, hfl⟩, rest⟩ := h
  exact ⟨hp, ⟨hst, hta, hc, hfl⟩, rest⟩

/-- FLAGS is written by its two flags. -/
theorem inv_flags (intf stopp : Bool) (h : Inv s) : Inv { s with flags := flagsWord intf stopp } := by
  obtain ⟨hp, ⟨hst, hta, hct, -⟩, rest⟩ := h
  exact ⟨hp, ⟨hst, hta, hct, flagsWord_reserved _ _⟩, rest⟩

/-- The notify target is written inside RECIPIENT. -/
theorem inv_notifyTarget {r : Recipient} (hr : r < 2 ^ s.params.recipientBits) (h : Inv s) :
    Inv { s with notifyTarget := r } := by
  obtain ⟨hp, hreg, hl, hv, hw, hrs, hws, hc, hn, ⟨-, hnr⟩, hm⟩ := h
  exact ⟨hp, hreg, hl, hv, hw, hrs, hws, hc, hn, ⟨hr, hnr⟩, hm⟩

/-- A notification is posted for the notify target (R140). -/
theorem inv_post (hr : s.notifyTarget ≠ Recipient.null) (h : Inv s) :
    Inv { s with nslot := ⟨true, s.notifyTarget, s.transferredCount⟩ } := by
  obtain ⟨hp, hreg, hl, hv, hw, hrs, hws, hc, -, ⟨hnt, -⟩, hm⟩ := h
  exact ⟨hp, hreg, hl, hv, hw, hrs, hws, hc, ⟨nofun, fun _ => hr, hc⟩, ⟨hnt, hnt⟩, hm⟩

/-- The notification slot is emptied (R141). -/
theorem inv_emptySlot (h : Inv s) : Inv { s with nslot := ⟨false, Recipient.null, 0⟩ } := by
  obtain ⟨hp, hreg, hl, hv, hw, hrs, hws, hc, -, ⟨hnt, -⟩, hm⟩ := h
  exact ⟨hp, hreg, hl, hv, hw, hrs, hws, hc, ⟨fun _ => rfl, nofun, countInRange_zero _⟩,
    ⟨hnt, Nat.two_pow_pos _⟩, hm⟩

/-- The resume step, by its five outcomes. -/
theorem inv_resume (k : Continuation) (h : Inv s) : Inv (resume k s) := by
  rcases resume_cases s k with ⟨-, hc⟩ | ⟨-, hc⟩ | ⟨-, -, hc⟩ | ⟨-, hr, -, hc⟩ | ⟨-, -, -, hc⟩ <;> rw [hc]
  · exact h
  · exact (inv_count (countInRange_neg_one _) h :)
  · exact (inv_taddr (t := 0) (by decide) h :)
  · exact (inv_taddr (t := 0) (by decide) (inv_post hr h) :)
  · exact (inv_taddr (t := 0) (by decide) h :)

/-! ## Commands and events -/

/-- An event keeps the invariant: the accesses of the cursor are made where a byte is left. -/
theorem exec_event_inv {i : Instr} {u : State} (hf : i.format = .status) (hI : Inv s)
    (h : exec i s = .next u) : Inv u := by
  obtain ⟨hread, hwrite⟩ := slotsOk_of_inv hI
  have ttSent {v : State} (hv : Inv v) (hsend : ttSend v = .next u) : Inv u := by
    rcases ttSend_next _ _ hsend with ⟨hroom, -, rfl⟩ | ⟨-, rfl⟩
    · exact inv_issue .ack (inv_loadByte hroom hv)
    · exact inv_issue .nack hv
  rcases exec_event i s u hf h with ⟨-, rfl⟩ | ⟨-, rfl⟩ | ⟨-, hsend⟩ | ⟨-, k, rfl⟩ | ⟨-, rfl⟩ |
    ⟨-, hstore⟩ | ⟨-, hstore⟩ | ⟨-, hsend⟩ | ⟨-, hsend⟩ | ⟨-, rfl⟩ | ⟨-, rfl⟩ | ⟨-, hstore⟩ | ⟨-, rfl⟩
  · exact inv_issue .data hI
  · exact (inv_count (countInRange_neg_one _) (inv_issue .idle hI) :)
  · have hv := inv_ctAdvance hI
    generalize ctAdvance s = v at hsend hv
    rcases ctSendOrStop_next _ _ hsend with ⟨hroom, -, rfl⟩ | ⟨-, rfl⟩
    · exact (inv_issue .data (inv_countSucc (inv_loadByte hroom hv)) :)
    · exact inv_stopThen .kIdle hv
  · exact inv_stopThen k hI
  · exact inv_crAckDecide hI
  · rcases crStore_next _ _ _ hstore with ⟨hroom, -, rfl⟩ | ⟨-, rfl⟩
    · exact inv_crAckDecide (inv_storeByte hroom hI)
    · exact hI
  · rcases crStore_next _ _ _ hstore with ⟨hroom, -, rfl⟩ | ⟨-, rfl⟩
    · exact inv_stopThen .kIdle (inv_storeByte hroom hI)
    · exact hI
  · exact ttSent (inv_selectTarget _ hread hI) hsend
  · exact ttSent hI hsend
  · exact (inv_issue .ack hI :)
  · exact inv_issue .ack (inv_selectTarget _ hwrite hI)
  · rcases trStore_next _ _ hstore with ⟨hroom, -, rfl⟩ | ⟨-, rfl⟩
    · exact inv_issue .ack (inv_storeByte hroom hI)
    · exact inv_issue .nack hI
  · exact inv_issue .idle hI

/-! ## Host operations -/

/-- An accepted vector: at most N + 1 entries, each inside its space, one of them a sentinel. -/
abbrev VectorAccepted (p : Params) (vec : List Segment) : Prop :=
  vec.length ≤ p.n + 1 ∧ (∀ e ∈ vec, SegmentInside p e) ∧ ∃ e ∈ vec, e.len = 0

/-- A host's vector of operands inside their widths that meets the contract is one (R130). -/
theorem vectorAccepted_of_contract {p : Params} {vec : List Segment} (hlen : vec.length ≤ p.n + 1)
    (hwf : ∀ e ∈ vec, e.base < 2 ^ p.aw ∧ e.len < 2 ^ p.lw) (hc : vecContract p vec = true) :
    VectorAccepted p vec := by
  obtain ⟨hin, hz, -⟩ := (vecContract_iff p vec).mp hc
  refine ⟨hlen, fun e he => ?_, hz⟩
  obtain ⟨hsp, hend⟩ := hin e he
  obtain ⟨hb, hl⟩ := hwf e he
  exact ⟨hb, hl, by rw [hsp]; exact hend⟩

/-- A payload of operands inside their widths that meets the contract is one, behind a header of at most
two bytes too, for which a vector has room (R7, R66). -/
theorem vectorAccepted_payload {p : Params} {buf size : Nat} (hp : p.wf)
    (hwf : bufWellFormed p buf size = true) (hend : buf + size ≤ 2 ^ p.aw) :
    VectorAccepted p (payloadVec buf size) ∧ ∀ k ≤ 2, VectorAccepted p (headerVec k buf size) := by
  obtain ⟨hn, hlw, -⟩ := hp
  simp only [bufWellFormed, inWidth, Bool.and_eq_true, decide_eq_true_eq] at hwf
  have hpay : SegmentInside p ⟨.mem, buf, size⟩ := ⟨hwf.1, hwf.2, hend⟩
  have hfour : 2 ^ 2 ≤ 2 ^ p.lw := Nat.pow_le_pow_right (by decide) hlw
  refine ⟨⟨by simp [payloadVec]; omega, ?_, _, List.mem_cons_of_mem _ (List.mem_singleton_self _), rfl⟩,
    fun k hk => ⟨by simp [headerVec]; omega, ?_, Segment.sentinel, by simp [headerVec], rfl⟩⟩
  · rintro e he
    simp only [payloadVec, List.mem_cons, List.not_mem_nil, or_false] at he
    rcases he with rfl | rfl
    · exact hpay
    · exact segmentInside_sentinel p
  · have hlen : k < 2 ^ p.lw := by omega
    have hbase : 0 + k ≤ spaceTop p .hdr := by simpa [spaceTop] using hk
    rintro e he
    simp only [headerVec, List.mem_cons, List.not_mem_nil, or_false] at he
    rcases he with rfl | rfl | rfl
    · exact ⟨Nat.two_pow_pos _, hlen, hbase⟩
    · exact hpay
    · exact segmentInside_sentinel p

/-- The vector that an accepted request walks is one. -/
theorem vectorAccepted_of_request {p : Params} {i : Instr} {vec : List Segment} (hp : p.wf)
    (hwf : i.wellFormed p = true) (h : requestVector p i vec) : VectorAccepted p vec := by
  rcases h with ⟨⟨ab, rfl⟩, hc⟩ | ⟨a, buf, size, hi, rfl, hc⟩ | ⟨a, hd, buf, size, rfl, rfl, hc⟩ |
    ⟨a, hd, buf, size, rfl, rfl, hc⟩
  · simp only [Instr.wellFormed, vecWellFormed, Bool.and_eq_true, decide_eq_true_eq, List.all_eq_true,
      Segment.wellFormed, bufWellFormed, inWidth] at hwf
    obtain ⟨⟨-, hlen⟩, hin⟩ := hwf
    exact vectorAccepted_of_contract hlen hin hc
  · have hbuf : bufWellFormed p buf size = true := by rcases hi with rfl | rfl <;> exact hwf
    exact (vectorAccepted_payload hp hbuf ((payload_contract_iff p buf size).mp hc).1).1
  · exact (vectorAccepted_payload hp hwf ((headerContract_iff p 1 buf size).mp hc).1).2 1 (by decide)
  · exact (vectorAccepted_payload hp hwf ((headerContract_iff p 2 buf size).mp hc).1).2 2 (by decide)

/-- Filled with sentinels, an accepted vector has N + 1 entries, each inside its space (R29). -/
theorem fillVec_inside {p : Params} {vec : List Segment} (h : VectorAccepted p vec) :
    (fillVec p vec).length = p.n + 1 ∧ (∀ e ∈ fillVec p vec, SegmentInside p e) ∧
      ∃ e ∈ fillVec p vec, e.len = 0 := by
  obtain ⟨hlen, hin, z, hz, hzero⟩ := h
  refine ⟨by simp [fillVec]; omega, fun e he => ?_, z, List.mem_append_left _ hz, hzero⟩
  rcases List.mem_append.mp he with hv | hfill
  · exact hin e hv
  · exact List.eq_of_mem_replicate hfill ▸ segmentInside_sentinel p

/-- An accepted request walks the first entry of its vector. -/
theorem inv_accept (ab : Byte) {vec : List Segment} (hv : VectorAccepted s.params vec) (h : Inv s) :
    Inv (accept ab vec s) := by
  obtain ⟨hlen, hin, hz⟩ := fillVec_inside hv
  obtain ⟨-, -, hfirst⟩ := segmentInside_iovAt hin 0
  obtain ⟨hp, hr, hl, -, hw, rest⟩ := h
  have vector : Inv { s with iov := fillVec s.params vec, segmentIndex := 0 } :=
    ⟨hp, hr, hl, ⟨hlen, hin, hz, Nat.zero_le _⟩, hw, rest⟩
  exact inv_issue .start (inv_count (countInRange_zero _)
    (inv_walk (s := { s with iov := fillVec s.params vec, segmentIndex := 0 })
      (Nat.le_add_right _ _) hfirst vector))

/-- The registers that an accepted `begin` writes keep the invariant. -/
theorem inv_configure (a : Byte) (h : Inv s) : Inv (configure a s) := by
  rcases configure_cases s a with ⟨-, hc⟩ | ⟨-, hc⟩ <;> rw [hc]
  · exact (inv_ctrl (ctrlWord_reserved _ _ _) (inv_taddr (t := 0) (by decide) h) :)
  · exact inv_ctrl (ctrlWord_reserved _ _ _) (inv_taddr (filterValue_gce _) h)

/-- A buffer inside its widths that meets the contract is a slot (R137). -/
theorem slotOk_of_contract {p : Params} {buf size : Nat} (hwf : bufWellFormed p buf size = true)
    (hc : slotContract p buf size = true) : SlotOk p ⟨buf, size⟩ := by
  simp only [bufWellFormed, inWidth, Bool.and_eq_true, decide_eq_true_eq] at hwf
  simp only [slotContract, Bool.and_eq_true, decide_eq_true_eq] at hc
  exact ⟨hwf.1, hc⟩

/-- A host operation of operands inside their widths keeps the invariant. -/
theorem exec_hostOp_inv {i : Instr} {u : State} (hf : i.format = .hostOp)
    (hwf : i.wellFormed s.params = true) (hI : Inv s) (h : exec i s = .next u) : Inv u := by
  rcases exec_hostOp i s u hf h with ⟨rfl, -⟩ | ⟨r, rfl, -⟩ | ⟨r, rfl⟩ | ⟨n, a, rfl, -, rfl⟩ |
    ⟨-, -, rfl⟩ | ⟨-, -, ab, vec, h0, h1, hv, -, rfl⟩ | ⟨b, n, rfl, hc, rfl⟩ | ⟨b, n, rfl, hc, rfl⟩ |
    ⟨-, -, rfl⟩
  · exact hI
  · exact hI
  · exact hI
  · have hn : n < 2 ^ s.params.recipientBits := by simpa [Instr.wellFormed, inWidth] using hwf
    exact (inv_issue .idle (inv_configure a
      (inv_notifyTarget (s := { s with ownAddress := a.setWidth 7 }) hn hI)) :)
  · exact (inv_flags false _ (inv_ctrl (c := 0) (by decide)
      (inv_notifyTarget (r := Recipient.null) (Nat.two_pow_pos _) hI)) :)
  · exact (inv_accept (s := { s with hdr0 := h0, hdr1 := h1 }) ab
      (vectorAccepted_of_request (paramsWf_of_inv hI) hwf hv) hI :)
  · obtain ⟨hp, hr, hl, hv, hw, hrs, -, rest⟩ := hI
    exact ⟨hp, hr, hl, hv, hw, hrs, slotOk_of_contract hwf hc, rest⟩
  · obtain ⟨hp, hr, hl, hv, hw, -, rest⟩ := hI
    exact ⟨hp, hr, hl, hv, hw, slotOk_of_contract hwf hc, rest⟩
  · exact (inv_taddr (filterValue_gce _) (inv_emptySlot hI) :)

/-! ## What the host port spells (R67, R68) -/

/-- The operands of `begin` are inside their widths. -/
theorem decodeBegin_wellFormed {p : Params} {bs rest : List Byte} {i : Instr}
    (h : decodeBegin p bs = .ok (i, rest)) : i.wellFormed p = true := by
  unfold decodeBegin at h
  split at h
  · cases h
  · next hn =>
    split at h <;> cases h
    simpa [Instr.wellFormed, inWidth] using takeOperand_inWidth _ _ _ _ hn

/-- The vector of `request` has 1 to N + 1 entries inside their widths. -/
theorem decodeRequest_wellFormed {p : Params} {bs rest : List Byte} {i : Instr}
    (h : decodeRequest p bs = .ok (i, rest)) : i.wellFormed p = true := by
  unfold decodeRequest at h
  split at h
  · cases h
  · split at h
    · cases h
    · next hv =>
      cases h
      obtain ⟨hne, hlen, hin⟩ := takeVector_wellFormed _ _ _ _ _ hv
      simp [Instr.wellFormed, vecWellFormed, hne, hlen, List.all_eq_true.mpr hin]

/-- What is taken as a buffer is well formed. -/
theorem takeBuf_wellFormed {p : Params} {bs rest : List Byte} {buf size : Nat}
    (h : takeBuf p bs = .ok ((buf, size), rest)) : bufWellFormed p buf size = true := by
  simpa [bufWellFormed, inWidth] using takeBuf_inWidth p bs rest buf size h

/-- The buffer of a slot operation is inside its widths, for an operation that asks no more. -/
theorem decodeSlot_wellFormed {p : Params} {mk : Nat → Nat → Instr} {bs rest : List Byte} {i : Instr}
    (hmk : ∀ buf size, (mk buf size).wellFormed p = bufWellFormed p buf size)
    (h : decodeSlot p mk bs = .ok (i, rest)) : i.wellFormed p = true := by
  unfold decodeSlot at h
  split at h
  · cases h
  · next hb => cases h; rw [hmk]; exact takeBuf_wellFormed hb

/-- The buffer of a plain transfer is inside its widths, for an operation that asks no more. -/
theorem decodeTransfer_wellFormed {p : Params} {mk : BitVec 7 → Nat → Nat → Instr}
    {bs rest : List Byte} {i : Instr}
    (hmk : ∀ a buf size, (mk a buf size).wellFormed p = bufWellFormed p buf size)
    (h : decodeTransfer p mk bs = .ok (i, rest)) : i.wellFormed p = true := by
  unfold decodeTransfer at h
  split at h
  · cases h
  · split at h
    · cases h
    · next hb => cases h; rw [hmk]; exact takeBuf_wellFormed hb

/-- The buffer of a transfer with a header is inside its widths, for an operation that asks no more. -/
theorem decodeHeaderTransfer_wellFormed {p : Params} {w : Nat}
    {mk : BitVec 7 → BitVec w → Nat → Nat → Instr} {bs rest : List Byte} {i : Instr}
    (hmk : ∀ a hd buf size, (mk a hd buf size).wellFormed p = bufWellFormed p buf size)
    (h : decodeHeaderTransfer p w mk bs = .ok (i, rest)) : i.wellFormed p = true := by
  unfold decodeHeaderTransfer at h
  split at h
  · cases h
  · split at h
    · cases h
    · split at h
      · cases h
      · next hb => cases h; rw [hmk]; exact takeBuf_wellFormed hb

/-- The sleep mode of `await_completed` is inside its width. -/
theorem decodeAwait_wellFormed {p : Params} {bs rest : List Byte} {i : Instr}
    (h : decodeAwait p bs = .ok (i, rest)) : i.wellFormed p = true := by
  unfold decodeAwait at h
  split at h
  · cases h
  · next hm => cases h; simpa [Instr.wellFormed, inWidth] using takeOperand_inWidth _ _ _ _ hm

/-- Whatever bytes stand at the port, an operation that they spell has operands inside their widths. -/
theorem decodeHostOp_wellFormed {p : Params} {bs rest : List Byte} {i : Instr}
    (h : decodeHostOp p bs = .ok (i, rest)) : i.wellFormed p = true := by
  unfold decodeHostOp at h
  split at h
  · cases h
  · split at h
    · exact decodeBegin_wellFormed h
    · cases h; rfl
    · exact decodeRequest_wellFormed h
    · exact decodeTransfer_wellFormed (fun _ _ _ => rfl) h
    · exact decodeHeaderTransfer_wellFormed (fun _ _ _ _ => rfl) h
    · exact decodeHeaderTransfer_wellFormed (fun _ _ _ _ => rfl) h
    · exact decodeTransfer_wellFormed (fun _ _ _ => rfl) h
    · exact decodeAwait_wellFormed h
    · exact decodeSlot_wellFormed (fun _ _ => rfl) h
    · exact decodeSlot_wellFormed (fun _ _ => rfl) h
    · cases h; rfl
    · cases h

/-- A value of CMD spells a command. -/
theorem decodeCommand_format {c : Byte} {i : Instr} (h : decodeCommand c = .ok i) : i.format = .cmd := by
  unfold decodeCommand at h
  split at h <;> cases h <;> rfl

/-! ## Every step -/

/-- Taking a turn keeps the invariant, which reads neither the turn list nor the draw index. -/
theorem inv_nextTurn (h : Inv s) : Inv (nextTurn s).2 := by
  rcases nextTurn_cases s with ⟨t, ts, -, ht⟩ | ⟨-, ht⟩ <;> rw [ht] <;> exact h

/-- An event raised by the environment is written to STATUS as its code. -/
theorem inv_raiseEvent (st d : Byte) (h : Inv s) : Inv (raiseEvent st d s) := by
  obtain ⟨hp, ⟨-, hta, hct, -⟩, rest⟩ := h
  exact ⟨hp, ⟨status_append_reserved _, hta, hct, flagsWord_reserved _ _⟩, rest⟩

/-- Settles O3: each of the ten things a step can be keeps the invariant; a host operation came from the
port with operands inside their widths. -/
theorem everyStepKeepsTheInvariant : Obligations.EveryStepKeepsTheInvariant := by
  unfold Obligations.EveryStepKeepsTheInvariant
  intro s u hI h
  obtain ⟨-, v, hv, hcases⟩ := step_cases s u h
  have hI : Inv v := hv ▸ inv_nextTurn hI
  rcases hcases with ⟨m, -, -, rfl⟩ | ⟨-, -, -, hx⟩ | ⟨k, -, -, -, rfl⟩ | ⟨i, rest, -, -, hd, -, hx⟩ |
    ⟨m, rest, -, -, -, -, -, rfl⟩ | ⟨a, b, -, -, -, ha, rfl⟩ | ⟨bs, -, -, -, -, -, rfl⟩ |
    ⟨st, d, -, -, -, rfl⟩ | ⟨-, -, rfl⟩ | ⟨c, i, -, hd, hx⟩
  · exact hI
  · exact exec_event_inv (s := enterHandler v) (decodeStatus_format _ _) hI hx
  · exact inv_resume k hI
  · exact exec_hostOp_inv (s := { v with port := rest, awaiting := false }) (fetchHostOp_format hd)
      (decodeHostOp_wellFormed ((fetchHostOp_eq v).symm.trans hd)) hI hx
  · exact hI
  · exact inv_memWrite b ha hI
  · exact hI
  · exact inv_raiseEvent st d hI
  · exact inv_flags _ _ hI
  · obtain ⟨c, rfl⟩ := exec_command i v u (decodeCommand_format hd) hx
    exact inv_issue c hI

/-! ## No access outside its space (R31, R44; log 10) -/

/-- Under the invariant every instruction answers a next state: the accesses of the cursor are made where
a byte is left, and they are the only stops that a meaning has. -/
theorem exec_next_of_inv (i : Instr) (hI : Inv s) : ∃ u, exec i s = .next u := by
  have hw := walkOk_of_inv hI
  obtain ⟨hread, -⟩ := slotsOk_of_inv hI
  have ctSent : ∃ u, ctSend s = .next u := by
    have hadv := walkOk_of_inv (inv_ctAdvance hI)
    rcases Nat.lt_or_ge (ctAdvance s).cursor (ctAdvance s).limit with hlt | hge
    · exact ⟨_, ctSendOrStop_room hadv hlt⟩
    · exact ⟨_, ctSendOrStop_empty hge⟩
  have ttSent {v : State} (hv : WalkOk v) : ∃ u, ttSend v = .next u := by
    unfold ttSend
    split
    · next hlt => exact ⟨_, atCursor_of_lt_limit hv hlt _⟩
    · exact ⟨_, rfl⟩
  have crStored (after : State → State) : ∃ u, crStore after s = .next u := by
    rcases Nat.lt_or_ge s.cursor s.limit with hlt | hge
    · exact ⟨_, crStore_room after hw hlt⟩
    · exact ⟨_, crStore_full after hge⟩
  have trStored : ∃ u, trStore s = .next u := by
    rcases Nat.lt_or_ge s.cursor s.limit with hlt | hge
    · exact ⟨_, trStore_room hw hlt⟩
    · exact ⟨_, trStore_full hge⟩
  have selected : WalkOk (ttSelect s) := walkOk_of_inv (inv_selectTarget .targetTransmit hread hI)
  -- a meaning that asks a condition and answers a next state on both sides
  have either (c : Prop) [Decidable c] (a b : State) :
      ∃ u, (if c then (.next a : Result) else .next b) = .next u := by
    split <;> exact ⟨_, rfl⟩
  cases i
  case evCtAddrAck | evCtDataAck => exact ctSent
  case evCrDataAck => exact crStored crAckDecide
  case evCrDataNack => exact crStored (stopThen .kIdle)
  case evTtAddrAck | evTtArbLostAddrAck => exact ttSent selected
  case evTtDataAck => exact ttSent hw
  case evTrDataAck | evTrGcallDataAck => exact trStored
  case begin | endOp | awaitCompleted | setWriteBuf | setReadBuf | dispatch => exact either _ _ _
  all_goals exact ⟨_, rfl⟩

/-- Under the invariant a step that answers a fault is one of a state with a reason recorded: a move makes
no other than its instruction's. -/
theorem step_fault_of_inv {f : Fault} (hI : Inv s) (h : step s = .fault f) : ∃ r, f = .stopped r := by
  have next {i : Instr} {v : State} (hv : Inv v) : exec i v ≠ .fault f := by
    obtain ⟨u, hu⟩ := exec_next_of_inv i hv
    simp [hu]
  unfold step at h
  split at h
  · cases h; exact ⟨_, rfl⟩
  · have hv := inv_nextTurn hI
    generalize (nextTurn s).1 = t, (nextTurn s).2 = v at h hv
    cases t with
    | mockCommand c =>
      simp only [performTurn, performMockCommand] at h
      split at h
      · exact absurd h (next hv)
      · cases h
    | agent m =>
      simp only [performTurn] at h
      split at h
      case isFalse => cases h
      cases m with
      | sequencer =>
        simp only [performMove, performSequencer] at h
        split at h
        · exact absurd h (next (v := enterHandler v) hv)
        · cases h
      | host =>
        simp only [performMove, performHost] at h
        split at h
        · next i rest hd =>
          refine absurd h (next ?_)
          unfold callHostOp
          split <;> exact hv
        · cases h
      | hostStore => cases h
      | hostProgram => cases h
      | busEvent => cases h
      | stopClear => cases h

/-- Settles O5: the two faults are no recorded reason. -/
theorem noStepLeavesItsAddressSpaces : Obligations.NoStepLeavesItsAddressSpaces := by
  unfold Obligations.NoStepLeavesItsAddressSpaces
  refine fun s hI => ⟨fun h => ?_, fun h => ?_⟩ <;> obtain ⟨r, hr⟩ := step_fault_of_inv hI h <;> cases hr

/-! ## Entering and leaving ACTIVE (R42) -/

/-- The events that select the node as a target (R107, R108, R114 to R117). -/
def selectionEvents : List Instr := [.evTtAddrAck, .evTtArbLostAddrAck, .evTrAddrAck,
  .evTrArbLostAddrAck, .evTrGcallAck, .evTrArbLostGcallAck]

/-- The events that end a transaction with no stop wait (R93, R110, R111). -/
def endingEvents : List Instr := [.evArbLost, .evTtDataNack, .evTtLastData]

/-- An event keeps the lifecycle, selects the node and enters ACTIVE, or ends the transaction. -/
theorem exec_event_lifecycle {i : Instr} (hf : i.format = .status) (h : exec i s = .next u) :
    u.lifecycle = s.lifecycle ∨ (i ∈ selectionEvents ∧ u.lifecycle = .active) ∨
      (i ∈ endingEvents ∧ u.lifecycle ≠ .active) := by
  rcases exec_event i s u hf h with ⟨-, rfl⟩ | ⟨rfl, rfl⟩ | ⟨-, hsend⟩ | ⟨-, k, rfl⟩ | ⟨-, rfl⟩ |
    ⟨-, hstore⟩ | ⟨-, hstore⟩ | ⟨hi, hsend⟩ | ⟨-, hsend⟩ | ⟨hi, rfl⟩ | ⟨hi, rfl⟩ | ⟨-, hstore⟩ | ⟨-, rfl⟩
  · exact .inl rfl
  · exact .inr (.inr ⟨by decide, nofun⟩)
  · obtain ⟨k, sp, c, l, hadv⟩ := ctAdvance_eq s
    rw [hadv] at hsend
    rcases ctSendOrStop_next _ _ hsend with ⟨-, -, rfl⟩ | ⟨-, rfl⟩ <;> exact .inl rfl
  · exact .inl rfl
  · exact .inl (by simp [crAckDecide_eq])
  · rcases crStore_next _ _ _ hstore with ⟨-, -, rfl⟩ | ⟨-, rfl⟩
    · exact .inl (by simp [crAckDecide_eq])
    · exact .inl rfl
  · rcases crStore_next _ _ _ hstore with ⟨-, -, rfl⟩ | ⟨-, rfl⟩ <;> exact .inl (by simp)
  · have hsel : i ∈ selectionEvents := List.mem_append_left _ hi
    rcases ttSend_next _ _ hsend with ⟨-, -, rfl⟩ | ⟨-, rfl⟩ <;> exact .inr (.inl ⟨hsel, rfl⟩)
  · rcases ttSend_next _ _ hsend with ⟨-, -, rfl⟩ | ⟨-, rfl⟩ <;> exact .inl rfl
  · exact .inr (.inr ⟨List.mem_cons_of_mem _ hi, nofun⟩)
  · exact .inr (.inl ⟨List.mem_cons_of_mem _ (List.mem_cons_of_mem _ hi), rfl⟩)
  · rcases trStore_next _ _ hstore with ⟨-, -, rfl⟩ | ⟨-, rfl⟩ <;> exact .inl (by simp)
  · exact .inl rfl

/-- The transaction's own fields are those of `s` (R162). -/
def SameTransaction (s u : State) : Prop :=
  u.iov = s.iov ∧ u.cursor = s.cursor ∧ u.curSpace = s.curSpace ∧ u.limit = s.limit ∧
    u.segmentIndex = s.segmentIndex ∧ u.transferredCount = s.transferredCount ∧
    u.hdr0 = s.hdr0 ∧ u.hdr1 = s.hdr1 ∧ u.address = s.address ∧ u.role = s.role ∧
    u.lifecycle = s.lifecycle

theorem sameTransaction_refl : SameTransaction s s :=
  ⟨rfl, rfl, rfl, rfl, rfl, rfl, rfl, rfl, rfl, rfl, rfl⟩

/-- A host operation leaves the transaction, or is a request that was accepted: not while ACTIVE, from
where it enters ACTIVE and returns true. -/
theorem exec_hostOp_transaction {i : Instr} (hf : i.format = .hostOp) (h : exec i s = .next u) :
    SameTransaction s u ∨ (isRequest i = true ∧ s.lifecycle ≠ .active ∧
      u.hostLog = s.hostLog ++ [.result true]) := by
  rcases exec_hostOp i s u hf h with ⟨rfl, -⟩ | ⟨r, rfl, -⟩ | ⟨r, rfl⟩ | ⟨n, a, -, -, rfl⟩ |
    ⟨-, -, rfl⟩ | ⟨hi, hr, ab, vec, h0, h1, -, -, rfl⟩ | ⟨b, n, -, -, rfl⟩ | ⟨b, n, -, -, rfl⟩ |
    ⟨-, -, rfl⟩
  case inr.inr.inr.inl =>
    rcases configure_cases { s with notifyTarget := n, ownAddress := a.setWidth 7 } a with
      ⟨-, hc⟩ | ⟨-, hc⟩ <;> rw [hc] <;> exact .inl sameTransaction_refl
  case inr.inr.inr.inr.inr.inl =>
    have hl : s.lifecycle ≠ .active := fun hl => by
      rw [(requestRefused_iff s).mpr (.inl hl)] at hr
      cases hr
    exact .inr ⟨hi, hl, rfl⟩
  all_goals exact .inl sameTransaction_refl

/-- Settles O59: the one host operation that writes the transaction is turned away while ACTIVE. -/
theorem hostCannotChangeAnActiveTransaction : Obligations.HostCannotChangeAnActiveTransaction := by
  unfold Obligations.HostCannotChangeAnActiveTransaction
  intro i s u hf hl h
  rcases exec_hostOp_transaction hf h with hsame | ⟨-, hidle, -⟩
  · rw [← hl]
    exact hsame
  · exact absurd hl hidle

/-- The five operations that make a request (R70). -/
theorem isRequest_iff (i : Instr) : isRequest i = true ↔
    (∃ ab vec, i = .request ab vec) ∨ (∃ a b n, i = .writeRequest a b n) ∨
      (∃ a h b n, i = .writeRequestH8 a h b n) ∨ (∃ a h b n, i = .writeRequestH16 a h b n) ∨
      ∃ a b n, i = .readRequest a b n := by
  cases i <;> simp [isRequest]

/-- A turn is taken with the lifecycle and the host log of the state before it. -/
theorem nextTurn_lifecycle_hostLog (s : State) :
    (nextTurn s).2.lifecycle = s.lifecycle ∧ (nextTurn s).2.hostLog = s.hostLog := by
  rcases nextTurn_cases s with ⟨t, ts, -, h⟩ | ⟨-, h⟩ <;> rw [h] <;> exact ⟨rfl, rfl⟩

/-- A step that changes the lifecycle is the sequencer's, or the host's step of a request that was
accepted. `v` is the state in which the turn is taken. -/
theorem step_lifecycle (h : step s = .next u) (hne : u.lifecycle ≠ s.lifecycle) :
    ∃ v, v = (nextTurn s).2 ∧
      ((turnOf s = .agent .sequencer ∧ v.phase = .ready ∧
          ((decodeStatus v.params v.status ∈ selectionEvents ∧ u.lifecycle = .active) ∨
            (decodeStatus v.params v.status ∈ endingEvents ∧ u.lifecycle ≠ .active))) ∨
        (turnOf s = .agent .sequencer ∧ (∃ k, v.phase = .waitStop k) ∧ u.lifecycle ≠ .active) ∨
        (turnOf s = .agent .host ∧ s.lifecycle ≠ .active ∧ u.hostLog = s.hostLog ++ [.result true] ∧
          ∃ i rest, decodeHostOp v.params v.port = .ok (i, rest) ∧ isRequest i = true)) := by
  obtain ⟨hl, hlog⟩ := nextTurn_lifecycle_hostLog s
  obtain ⟨-, v, hv, hcases⟩ := step_cases s u h
  refine ⟨v, hv, ?_⟩
  rw [← hv] at hl hlog
  rw [← hl] at hne ⊢
  rw [← hlog]
  rcases hcases with ⟨m, -, -, rfl⟩ | ⟨ht, hp, -, hx⟩ | ⟨k, ht, hp, -, rfl⟩ | ⟨i, rest, ht, -, hd, -, hx⟩ |
    ⟨m, rest, -, -, -, -, -, rfl⟩ | ⟨a, b, -, -, -, -, rfl⟩ | ⟨bs, -, -, -, -, -, rfl⟩ |
    ⟨st, d, -, -, -, rfl⟩ | ⟨-, -, rfl⟩ | ⟨c, i, -, hd, hx⟩
  case inr.inl =>
    exact .inl ⟨ht, hp, (exec_event_lifecycle (decodeStatus_format _ _) hx).resolve_left hne⟩
  case inr.inr.inl => exact .inr (.inl ⟨ht, ⟨k, hp⟩, resume_lifecycle_ne_active k v⟩)
  case inr.inr.inr.inl =>
    rcases exec_hostOp_transaction (fetchHostOp_format hd) hx with hsame | ⟨hi, hidle, hlog⟩
    · obtain ⟨-, -, -, -, -, -, -, -, -, -, hkeep⟩ := hsame
      exact absurd hkeep hne
    · exact .inr (.inr ⟨ht, hidle, hlog, i, rest, (fetchHostOp_eq v).symm.trans hd, hi⟩)
  case inr.inr.inr.inr.inr.inr.inr.inr.inr =>
    obtain ⟨c, rfl⟩ := exec_command i v u (decodeCommand_format hd) hx
    exact absurd rfl hne
  all_goals exact absurd rfl hne

/-- Settles O57: of the steps that change the lifecycle, a selection and an accepted request enter ACTIVE. -/
theorem activeIsEnteredByRequestOrSelection : Obligations.ActiveIsEnteredByRequestOrSelection := by
  unfold Obligations.ActiveIsEnteredByRequestOrSelection
  intro s u h hs hu
  obtain ⟨v, rfl, hcases⟩ := step_lifecycle h (fun he => hs (he ▸ hu))
  rcases hcases with ⟨ht, hp, hsel | hend⟩ | ⟨-, -, hne⟩ | ⟨ht, -, hlog, i, rest, hd, hi⟩
  · exact .inl ⟨ht, hp, hsel.1⟩
  · exact absurd hu hend.2
  · exact absurd hu hne
  · exact .inr ⟨ht, hlog, i, rest, hd, (isRequest_iff i).mp hi⟩

/-- Settles O58: of the steps that change the lifecycle, a resume and an ending event leave ACTIVE. -/
theorem activeIsLeftOnlyByTheSequencer : Obligations.ActiveIsLeftOnlyByTheSequencer := by
  unfold Obligations.ActiveIsLeftOnlyByTheSequencer
  intro s u h hs hu
  obtain ⟨v, rfl, hcases⟩ := step_lifecycle h (fun he => hu (he ▸ hs))
  rcases hcases with ⟨ht, hp, hsel | hend⟩ | ⟨ht, hwait, -⟩ | ⟨-, hidle, -⟩
  · exact absurd hsel.2 hu
  · exact ⟨ht, .inr ⟨hp, hend.1⟩⟩
  · exact ⟨ht, .inl hwait⟩
  · exact absurd hs hidle

/-! ## The logs are observation only (R40, R41) -/

/-- A state with other logs. -/
def withLogs (b : List (Command × Byte)) (h : List HostRecord) (s : State) : State :=
  { s with busLog := b, hostLog := h }

/-- An update appends to the logs what it appends whatever they hold, and reads nothing else of them. -/
def AppendsOnly (f : State → State) : Prop :=
  ∀ s, ∃ db dh, ∀ b h, f (withLogs b h s) = withLogs (b ++ db) (h ++ dh) (f s)

/-- The same of a meaning, where it answers a next state. -/
def AnswersAppendOnly (f : State → Result) : Prop :=
  ∀ s u, f s = .next u → ∃ db dh, ∀ b h, f (withLogs b h s) = .next (withLogs (b ++ db) (h ++ dh) u)

/-- An update that leaves the logs and reads nothing of them appends nothing. -/
theorem AppendsOnly.of_silent {f : State → State}
    (hf : ∀ s b h, f (withLogs b h s) = withLogs b h (f s)) : AppendsOnly f :=
  fun s => ⟨[], [], fun b h => by simp [hf]⟩

theorem AppendsOnly.issue (c : Command) : AppendsOnly (Machine.issue c) :=
  fun s => ⟨[(c, s.data)], [], fun b h => by simp [Machine.issue, withLogs]⟩

theorem AppendsOnly.hostReturn (r : HostRecord) : AppendsOnly (Machine.hostReturn r) :=
  fun s => ⟨[], [r], fun b h => by simp [Machine.hostReturn, withLogs]⟩

theorem AppendsOnly.comp {f g : State → State} (hg : AppendsOnly g) (hf : AppendsOnly f) :
    AppendsOnly (fun s => g (f s)) := by
  intro s
  obtain ⟨db, dh, hfs⟩ := hf s
  obtain ⟨eb, eh, hgs⟩ := hg (f s)
  exact ⟨db ++ eb, dh ++ eh, fun b h => by simp only [hfs, hgs, List.append_assoc]⟩

/-- A command after an update that leaves the logs and reads nothing of them. -/
theorem AppendsOnly.issue_silent (c : Command) {f : State → State}
    (hf : ∀ s b h, f (withLogs b h s) = withLogs b h (f s)) : AppendsOnly (fun s => Machine.issue c (f s)) :=
  .comp (.issue c) (.of_silent hf)

/-- The return of a host operation after an update that leaves the logs and reads nothing of them. -/
theorem AppendsOnly.hostReturn_silent (r : HostRecord) {f : State → State}
    (hf : ∀ s b h, f (withLogs b h s) = withLogs b h (f s)) :
    AppendsOnly (fun s => Machine.hostReturn r (f s)) :=
  .comp (.hostReturn r) (.of_silent hf)

/-- A choice by what is no log. -/
theorem AppendsOnly.ite {c : State → Prop} [DecidablePred c] {f g : State → State}
    (hc : ∀ s b h, c (withLogs b h s) ↔ c s) (hf : AppendsOnly f) (hg : AppendsOnly g) :
    AppendsOnly (fun s => if c s then f s else g s) := by
  intro s
  by_cases hs : c s
  · simpa only [hc, if_pos hs] using hf s
  · simpa only [hc, if_neg hs] using hg s

theorem AnswersAppendOnly.next {f : State → State} (hf : AppendsOnly f) :
    AnswersAppendOnly (fun s => .next (f s)) := by
  rintro s u ⟨⟩
  obtain ⟨db, dh, hfs⟩ := hf s
  exact ⟨db, dh, fun b h => by simp only [hfs]⟩

theorem AnswersAppendOnly.ite {c : State → Prop} [DecidablePred c] {f g : State → Result}
    (hc : ∀ s b h, c (withLogs b h s) ↔ c s) (hf : AnswersAppendOnly f) (hg : AnswersAppendOnly g) :
    AnswersAppendOnly (fun s => if c s then f s else g s) := by
  intro s u h
  by_cases hs : c s
  · simp only [if_pos hs] at h
    simpa only [hc, if_pos hs] using hf s u h
  · simp only [if_neg hs] at h
    simpa only [hc, if_neg hs] using hg s u h

/-- An access of the cursor reads no log. -/
theorem AnswersAppendOnly.atCursor {f : State → State} (hf : AppendsOnly f) :
    AnswersAppendOnly (fun s => Machine.atCursor s (f s)) := by
  intro s u h
  obtain ⟨hspace, rfl⟩ := (atCursor_next_iff _ _ _).mp h
  obtain ⟨db, dh, hfs⟩ := hf s
  exact ⟨db, dh, fun b h => (atCursor_next_iff _ _ _).mpr ⟨hspace, hfs b h⟩⟩

/-- A meaning after an update that leaves the logs and reads nothing of them. -/
theorem AnswersAppendOnly.after_silent {f : State → Result} {g : State → State}
    (hg : ∀ s b h, g (withLogs b h s) = withLogs b h (g s)) (hf : AnswersAppendOnly f) :
    AnswersAppendOnly (fun s => f (g s)) := by
  intro s u h
  simpa only [hg] using hf (g s) u h

/-! ### The shared operations -/

theorem segWrite_withLogs (sp : Space) (a : Nat) (v : Byte) (s : State) (b : List (Command × Byte))
    (h : List HostRecord) : segWrite sp a v (withLogs b h s) = withLogs b h (segWrite sp a v s) := by
  unfold segWrite withLogs
  cases sp with
  | mem => rfl
  | hdr => dsimp only; (repeat' split) <;> rfl

theorem storeByte_withLogs (s : State) (b : List (Command × Byte)) (h : List HostRecord) :
    storeByte (withLogs b h s) = withLogs b h (storeByte s) := by
  have written := segWrite_withLogs s.curSpace s.cursor s.data s b h
  unfold storeByte
  change ({ segWrite s.curSpace s.cursor s.data (withLogs b h s) with
    cursor := s.cursor + 1, transferredCount := countSucc s.params s.transferredCount } : State) = _
  rw [written]
  rfl

theorem ctAdvance_withLogs (s : State) (b : List (Command × Byte)) (h : List HostRecord) :
    ctAdvance (withLogs b h s) = withLogs b h (ctAdvance s) := by
  unfold ctAdvance
  change (if s.cursor = s.limit ∧ s.segmentIndex < s.params.n then _ else _) = _
  split <;> rfl

theorem configure_withLogs (a : Byte) (s : State) (b : List (Command × Byte)) (h : List HostRecord) :
    configure a (withLogs b h s) = withLogs b h (configure a s) := by
  unfold configure
  split <;> rfl

theorem appendsOnly_stopThen (k : Continuation) : AppendsOnly (stopThen k) :=
  .comp (g := fun s => { s with phase := .waitStop k }) (.of_silent fun _ _ _ => rfl) (.issue .stop)

theorem appendsOnly_raiseFault (r : FaultReason) : AppendsOnly (raiseFault r) :=
  .of_silent fun _ _ _ => rfl

theorem appendsOnly_crAckDecide : AppendsOnly crAckDecide :=
  .ite (fun _ _ _ => Iff.rfl) (.issue .ack) (.issue .nack)

theorem appendsOnly_accept (ab : Byte) (vec : List Segment) : AppendsOnly (accept ab vec) :=
  .issue_silent .start fun _ _ _ => rfl

theorem appendsOnly_sendAddress : AppendsOnly sendAddress := .issue_silent .data fun _ _ _ => rfl

theorem appendsOnly_trSelect : AppendsOnly trSelect := .issue_silent .ack fun _ _ _ => rfl

theorem appendsOnly_ttFinish : AppendsOnly ttFinish :=
  .comp (g := fun s => { s with lifecycle := .idle }) (.of_silent fun _ _ _ => rfl) (.issue .ack)

theorem answersAppendOnly_ctSendOrStop : AnswersAppendOnly ctSendOrStop :=
  .ite (fun _ _ _ => Iff.rfl)
    (.atCursor (.comp (g := fun s => { s with transferredCount := countSucc s.params s.transferredCount })
      (f := fun s => issue .data (loadByte s)) (.of_silent fun _ _ _ => rfl)
      (.issue_silent .data fun _ _ _ => rfl)))
    (.next (appendsOnly_stopThen .kIdle))

theorem answersAppendOnly_ctSend : AnswersAppendOnly ctSend :=
  .after_silent (f := ctSendOrStop) ctAdvance_withLogs answersAppendOnly_ctSendOrStop

theorem answersAppendOnly_crStore {after : State → State} (ha : AppendsOnly after) :
    AnswersAppendOnly (crStore after) :=
  .ite (fun _ _ _ => Iff.rfl) (.next (appendsOnly_raiseFault _))
    (.atCursor (.comp ha (.of_silent storeByte_withLogs)))

theorem answersAppendOnly_ttSend : AnswersAppendOnly ttSend :=
  .ite (fun _ _ _ => Iff.rfl) (.atCursor (.issue_silent .ack fun _ _ _ => rfl))
    (.next (.issue_silent .nack fun _ _ _ => rfl))

theorem answersAppendOnly_ttSelect : AnswersAppendOnly (fun s => ttSend (ttSelect s)) :=
  .after_silent (fun _ _ _ => rfl) answersAppendOnly_ttSend

theorem answersAppendOnly_trStore : AnswersAppendOnly trStore :=
  .ite (fun _ _ _ => Iff.rfl) (.atCursor (.issue_silent .ack storeByte_withLogs))
    (.next (.issue .nack))

/-- A request, whose contract reads the parameters alone. -/
theorem appendsOnly_requestOr {contract : State → Bool} {accepted : State → State}
    (hc : ∀ s b h, contract (withLogs b h s) = contract s) (ha : AppendsOnly accepted) :
    AppendsOnly (fun s => requestOr (contract s) (accepted s) s) :=
  .ite (fun _ _ _ => Iff.rfl) (.hostReturn _)
    (.ite (fun s b h => by rw [hc]) (.comp (.hostReturn _) ha) (appendsOnly_raiseFault _))

/-- A host operation appends what it appends whatever the logs hold. -/
theorem exec_hostOp_appendsOnly (i : Instr) (hf : i.format = .hostOp) : AnswersAppendOnly (exec i) := by
  have requests (ab : Byte) (vec : List Segment) :
      AnswersAppendOnly (fun s => .next (requestVec ab vec s)) :=
    .next (appendsOnly_requestOr (fun _ _ _ => rfl) (appendsOnly_accept ab vec))
  have fails (r : FaultReason) : AnswersAppendOnly (fun s => .next (raiseFault r s)) :=
    .next (appendsOnly_raiseFault r)
  cases i
  case begin notify a =>
    exact .ite (fun _ _ _ => Iff.rfl) (.next (.hostReturn _)) (.next (.comp (.hostReturn _)
      (.issue_silent .idle fun s => configure_withLogs a
        { s with notifyTarget := notify, ownAddress := a.setWidth 7 })))
  case endOp =>
    exact .ite (fun _ _ _ => Iff.rfl) (fails _) (.next (.hostReturn_silent _ fun _ _ _ => rfl))
  case request | writeRequest | readRequest => exact requests _ _
  case writeRequestH8 | writeRequestH16 =>
    exact .next (appendsOnly_requestOr (fun _ _ _ => rfl)
      (.comp (appendsOnly_accept _ _) (.of_silent fun _ _ _ => rfl)))
  case awaitCompleted m =>
    exact .ite (fun _ _ _ => Iff.rfl) (.next (.of_silent fun _ _ _ => rfl))
      (.next fun s => AppendsOnly.hostReturn (.count s.transferredCount) s)
  case setWriteBuf | setReadBuf =>
    exact .ite (fun _ _ _ => Iff.rfl) (.next (.hostReturn_silent _ fun _ _ _ => rfl)) (fails _)
  case dispatch =>
    exact .ite (fun _ _ _ => Iff.rfl) (.next (.comp (.hostReturn _)
      (.comp (g := fun s => { s with nslot := ⟨false, Recipient.null, 0⟩, taddr := filterValue s.ownAddress })
        (.of_silent fun _ _ _ => rfl)
        fun s => AppendsOnly.hostReturn (.onRequest s.nslot.recipient s.writeSlot.base s.nslot.count) s)))
      (.next (.hostReturn _))
  all_goals cases hf

/-- Every instruction appends what it appends whatever the logs hold. -/
theorem exec_appendsOnly (i : Instr) : AnswersAppendOnly (exec i) := by
  have issues (c : Command) : AnswersAppendOnly (fun s => .next (issue c s)) := .next (.issue c)
  have stops (k : Continuation) : AnswersAppendOnly (fun s => .next (stopThen k s)) :=
    .next (appendsOnly_stopThen k)
  cases i
  case cmdIdle | evUnrecognizedD0 | evUnrecognizedD8 | evUnrecognizedE0 | evUnrecognizedE8 |
      evUnrecognizedF0 => exact issues .idle
  case cmdStart => exact issues .start
  case cmdStop => exact issues .stop
  case cmdData => exact issues .data
  case cmdAck => exact issues .ack
  case cmdNack => exact issues .nack
  case evStart | evRepStart => exact .next appendsOnly_sendAddress
  case evArbLost =>
    exact .next (.comp (g := fun s => { s with lifecycle := .error, transferredCount := -1 })
      (.of_silent fun _ _ _ => rfl) (.issue .idle))
  case evCtAddrAck | evCtDataAck => exact answersAppendOnly_ctSend
  case evCtDataNack => exact stops .kIdle
  case evTrStop => exact stops .kTrDone
  case evCtAddrNack | evCrAddrNack | evBusError | evTrDataNack | evTrGcallDataNack | evTtAddrNack |
      evTrAddrNack | evNoInfo => exact stops .kError
  case evCrAddrAck => exact .next appendsOnly_crAckDecide
  case evCrDataAck => exact answersAppendOnly_crStore appendsOnly_crAckDecide
  case evCrDataNack => exact answersAppendOnly_crStore (appendsOnly_stopThen .kIdle)
  case evTtAddrAck | evTtArbLostAddrAck => exact answersAppendOnly_ttSelect
  case evTtDataAck => exact answersAppendOnly_ttSend
  case evTtDataNack | evTtLastData => exact .next appendsOnly_ttFinish
  case evTrAddrAck | evTrArbLostAddrAck | evTrGcallAck | evTrArbLostGcallAck =>
    exact .next appendsOnly_trSelect
  case evTrDataAck | evTrGcallDataAck => exact answersAppendOnly_trStore
  all_goals exact exec_hostOp_appendsOnly _ rfl

/-- Settles O55: each meaning is built of updates that only append to the logs; with its own logs this says
what the run appended. -/
theorem logsAreObservationOnly : Obligations.LogsAreObservationOnly := by
  unfold Obligations.LogsAreObservationOnly
  intro i s u b h hx
  obtain ⟨db, dh, hlogs⟩ := exec_appendsOnly i s u hx
  have own : exec i s = .next (withLogs (s.busLog ++ db) (s.hostLog ++ dh) u) := hlogs s.busLog s.hostLog
  have hu : u = withLogs (s.busLog ++ db) (s.hostLog ++ dh) u := by
    rw [hx] at own
    exact Host.Outcome.next.inj own
  exact ⟨db, dh, congrArg State.busLog hu, congrArg State.hostLog hu, hlogs b h⟩

/-! ## The sequencer's turn (R83, R88) -/

/-- Settles O9: in phase READY the sequencer's move is enabled exactly with IRQ. -/
theorem stepRunsThePendingEvent : Obligations.StepRunsThePendingEvent := by
  unfold Obligations.StepRunsThePendingEvent
  intro s ts ht hf hp
  have enabled_eq : enabled .sequencer s = irq s := by simp [enabled, sequencerEnabled, hf, hp]
  refine ⟨fun hintf hen hie => ?_, fun hmasked => step_given_pass s .sequencer ts hf ht ?_⟩
  · rw [step_given_enabled s .sequencer ts hf ht (by simp [enabled_eq, irq, hintf, hen, hie])]
    simp only [performMove, performSequencer, hp]
    rfl
  · rw [enabled_eq]
    rcases hmasked with hm | hm | hm <;> simp [irq, hm]

/-! ## Encoded values (R26, R27, R71, R148) -/

/-- Settles O60: the values as they stand in the three tables; only ACTIVE is above IDLE. -/
theorem encodedValuesOfState : Obligations.EncodedValuesOfState := by
  unfold Obligations.EncodedValuesOfState
  exact ⟨⟨rfl, rfl, rfl, rfl, rfl⟩, ⟨rfl, rfl, rfl, lifecycleCode_pos⟩, ⟨rfl, rfl, rfl, rfl, rfl⟩⟩

end Sys2Proof.Machine
end

section
namespace Sys2Proof.Machine

/-! ## The host in a stop wait (R50, R142 a, R150) -/

/-- Outside phase READY no move of the host is enabled, for each needs `hostRuns` (R142 a). -/
theorem host_disabled_of_not_ready {s : State} (hp : s.phase ≠ .ready) :
    enabled .host s = false ∧ (∀ a v, enabled (.hostStore a v) s = false) ∧
      ∀ bs, enabled (.hostProgram bs) s = false := by
  have hruns : hostRuns s = false := by simp [hostRuns, hp]
  simp [enabled, hruns]

/-- Settles O14: in a stop wait none of the host's three moves is enabled, so each of them passes. -/
theorem hostHasNoMoveDuringAStopWait : Obligations.HostHasNoMoveDuringAStopWait := by
  unfold Obligations.HostHasNoMoveDuringAStopWait
  intro s ts hf hp
  obtain ⟨hhost, hstore, hprogram⟩ := host_disabled_of_not_ready hp
  exact ⟨fun ht => step_given_pass s .host ts hf ht hhost,
    fun a v ht => step_given_pass s (.hostStore a v) ts hf ht (hstore a v),
    fun bs ht => step_given_pass s (.hostProgram bs) ts hf ht (hprogram bs)⟩

end Sys2Proof.Machine
end

section
/-!
PROOFS. The statements of spec/30_encoding.md, each after the facts it needs: the STATUS decoder under the
default map, the operands of a host operation taken back from the bytes they were put as, a mock's write of
CMD, and a request over one payload.
-/

namespace Sys2Proof.Machine

/-! ## The STATUS decoder (R58 to R60, R85) -/

/-- The instruction of a code under the default map (R59). -/
def defaultEvent (code : BitVec 5) : Instr :=
  (Config.statusMap.getD code.toNat .unrecognized).instr code

/-- Under the default map STATUS decodes by its code alone. -/
theorem decodeStatus_default {p : Params} (hp : p.statusMap = Config.statusMap) (st : Byte) :
    decodeStatus p st = defaultEvent (statusCode st) := by
  rw [decodeStatus, decodeEvent, hp, defaultEvent]

/-- The code of a STATUS is its upper five bits, whatever the lower three hold (R58). -/
theorem statusCode_append_low (c : BitVec 5) (low : BitVec 3) : statusCode (c ++ low) = c := by
  revert c low
  decide

/-- Settles O18: the code of the STATUS is the row's, and the default map gives each row's event. -/
theorem everyStatusDecodesByItsCode : Obligations.EveryStatusDecodesByItsCode := by
  unfold Obligations.EveryStatusDecodesByItsCode
  intro p low hp e he
  rw [decodeStatus_default hp, statusCode_append_low]
  revert e
  decide

/-- An instruction of TT_ADDR_NACK or TR_ADDR_NACK comes from that event alone, whatever the code. -/
theorem instr_eq_addrNack_iff (ev : Event) (code : BitVec 5) :
    (ev.instr code = .evTtAddrNack ↔ ev = .ttAddrNack) ∧
      (ev.instr code = .evTrAddrNack ↔ ev = .trAddrNack) := by
  cases ev
  case unrecognized =>
    simp only [Event.instr]
    split <;> decide
  all_goals simp [Event.instr]

/-- Settles O19: the two instructions come from their events alone, and the default map has neither. -/
theorem targetAddressNacksNeedAnotherMap : Obligations.TargetAddressNacksNeedAnotherMap := by
  unfold Obligations.TargetAddressNacksNeedAnotherMap
  refine ⟨fun p st => instr_eq_addrNack_iff _ _, fun p st hp => ?_⟩
  rw [decodeStatus_default hp]
  generalize statusCode st = c
  revert c
  decide

/-! ## Decode of encode (R57, R65, R67; log 2) -/

section HostOperands

variable {p : Params} {buf size : Nat} (rest : List Byte)

/-- A well-formed buffer is taken back. -/
theorem takeBuf_putBuf_wellFormed (h : bufWellFormed p buf size = true) :
    takeBuf p (putBuf p buf size ++ rest) = .ok ((buf, size), rest) := by
  simp only [bufWellFormed, inWidth, Bool.and_eq_true, decide_eq_true_eq] at h
  exact takeBuf_putBuf p buf size rest h.1 h.2

/-- An operand of a word's own width is taken back. -/
theorem takeOperand_putOperand_toNat {w : Nat} (x : BitVec w) :
    takeOperand w (putOperand w x.toNat ++ rest) = .ok (x.toNat, rest) :=
  takeOperand_putOperand w x.toNat rest x.isLt

/-- The operands of `begin` are taken back. -/
theorem decodeBegin_put {notify : Recipient} (a : Byte) (h : inWidth p.recipientBits notify = true) :
    decodeBegin p (putOperand p.recipientBits notify ++ putOperand 8 a.toNat ++ rest) =
      .ok (.begin notify a, rest) := by
  rw [List.append_assoc, decodeBegin, takeOperand_putOperand _ _ _ (of_decide_eq_true h)]
  simp only [takeOperand_putOperand_toNat, BitVec.ofNat_toNat, BitVec.setWidth_eq]

/-- The address byte of `request` and a vector of 1 to N + 1 entries are taken back. -/
theorem decodeRequest_put (ab : Byte) {vec : List Segment} (h : vecWellFormed p vec = true) :
    decodeRequest p (putOperand 8 ab.toNat ++ putVector p vec ++ rest) = .ok (.request ab vec, rest) := by
  simp only [vecWellFormed, Bool.and_eq_true, decide_eq_true_eq, List.all_eq_true] at h
  obtain ⟨⟨hpos, hlen⟩, hin⟩ := h
  have hne : vec ≠ [] := List.ne_nil_of_length_pos hpos
  simp only [decodeRequest, List.append_assoc, takeOperand_putOperand_toNat,
    takeVector_putVector p vec _ rest hne hlen hin, BitVec.ofNat_toNat, BitVec.setWidth_eq]

/-- The operands of a plain transfer are taken back. -/
theorem decodeTransfer_put (mk : BitVec 7 → Nat → Nat → Instr) (a : BitVec 7)
    (h : bufWellFormed p buf size = true) :
    decodeTransfer p mk (putOperand 7 a.toNat ++ putBuf p buf size ++ rest) =
      .ok (mk a buf size, rest) := by
  simp only [decodeTransfer, List.append_assoc, takeOperand_putOperand_toNat,
    takeBuf_putBuf_wellFormed rest h, BitVec.ofNat_toNat, BitVec.setWidth_eq]

/-- The operands of a transfer with a header are taken back, at either width of the header. -/
theorem decodeHeaderTransfer_put {w : Nat} (mk : BitVec 7 → BitVec w → Nat → Nat → Instr)
    (a : BitVec 7) (hd : BitVec w) (h : bufWellFormed p buf size = true) :
    decodeHeaderTransfer p w mk
        (putOperand 7 a.toNat ++ (putOperand w hd.toNat ++ putBuf p buf size) ++ rest) =
      .ok (mk a hd buf size, rest) := by
  simp only [decodeHeaderTransfer, List.append_assoc, takeOperand_putOperand_toNat,
    takeBuf_putBuf_wellFormed rest h, BitVec.ofNat_toNat, BitVec.setWidth_eq]

/-- The sleep mode of `await_completed` is taken back. -/
theorem decodeAwait_put {mode : SleepMode} (h : inWidth p.sleepBits mode = true) :
    decodeAwait p (putOperand p.sleepBits mode ++ rest) = .ok (.awaitCompleted mode, rest) := by
  rw [decodeAwait, takeOperand_putOperand _ _ _ (of_decide_eq_true h)]

/-- The operands of a slot operation are taken back. -/
theorem decodeSlot_put (mk : Nat → Nat → Instr) (h : bufWellFormed p buf size = true) :
    decodeSlot p mk (putBuf p buf size ++ rest) = .ok (mk buf size, rest) := by
  rw [decodeSlot, takeBuf_putBuf_wellFormed rest h]

end HostOperands

/-- A host operation is decoded from its opcode and the operands that follow it. -/
theorem decodeHostOp_encode {p : Params} {i : Instr} (rest : List Byte) (hf : i.format = .hostOp)
    (hw : i.wellFormed p = true) : decodeHostOp p (encode p i ++ rest) = .ok (i, rest) := by
  cases i
  case begin notify a => exact decodeBegin_put rest a hw
  case request ab vec => exact decodeRequest_put rest ab hw
  case writeRequest a buf size => exact decodeTransfer_put rest .writeRequest a hw
  case writeRequestH8 a hd buf size => exact decodeHeaderTransfer_put rest .writeRequestH8 a hd hw
  case writeRequestH16 a hd buf size => exact decodeHeaderTransfer_put rest .writeRequestH16 a hd hw
  case readRequest a buf size => exact decodeTransfer_put rest .readRequest a hw
  case awaitCompleted mode => exact decodeAwait_put rest hw
  case setWriteBuf buf size => exact decodeSlot_put rest .setWriteBuf hw
  case setReadBuf buf size => exact decodeSlot_put rest .setReadBuf hw
  case endOp | dispatch => rfl
  all_goals cases hf

/-- An event that has a code is one byte, whose code has that event in the default map (R59, R60). -/
theorem encode_event_byte {i : Instr} (p : Params) (hf : i.format = .status) (htt : i ≠ .evTtAddrNack)
    (htr : i ≠ .evTrAddrNack) : ∃ b, encode p i = [b] ∧ defaultEvent (statusCode b) = i := by
  cases i
  case evTtAddrNack => exact absurd rfl htt
  case evTrAddrNack => exact absurd rfl htr
  case cmdIdle | cmdStart | cmdStop | cmdData | cmdAck | cmdNack => cases hf
  case begin | endOp | request | writeRequest | writeRequestH8 | writeRequestH16 | readRequest |
      awaitCompleted | setWriteBuf | setReadBuf | dispatch => cases hf
  all_goals exact ⟨_, rfl, rfl⟩

/-- A command is one byte, which spells it (R61). -/
theorem encode_command_byte {i : Instr} (p : Params) (hf : i.format = .cmd) :
    ∃ b, encode p i = [b] ∧ decodeCommand b = .ok i := by
  cases i
  case cmdIdle | cmdStart | cmdStop | cmdData | cmdAck | cmdNack => exact ⟨_, rfl, rfl⟩
  all_goals cases hf

/-- Settles O20, interface by interface: a command and an event are one byte, and a host operation's
operands are taken back one after the other. -/
theorem decodeOfEncodeIsTheInstruction : Obligations.DecodeOfEncodeIsTheInstruction := by
  unfold Obligations.DecodeOfEncodeIsTheInstruction
  intro p i rest _ hmap hw htt htr
  cases hf : i.format with
  | cmd =>
    obtain ⟨b, hb, hi⟩ := encode_command_byte p hf
    simp only [hb, List.singleton_append, decode, hi]
  | status =>
    obtain ⟨b, hb, hi⟩ := encode_event_byte p hf htt htr
    rw [hb, List.singleton_append, decode, decodeStatus_default hmap, hi]
  | hostOp => exact decodeHostOp_encode rest hf hw

/-- Settles O21: what the host fetches from a port of these bytes is a host operation, and its operands are
inside their widths. -/
theorem decodedHostOperationsAreWellFormed : Obligations.DecodedHostOperationsAreWellFormed := by
  unfold Obligations.DecodedHostOperationsAreWellFormed
  intro p bs rest i h
  have hfetch : fetchHostOp { State.resetWith p with port := bs } = .ok (i, rest) := h
  exact ⟨fetchHostOp_format hfetch, decodeHostOp_wellFormed h⟩

/-- Settles O23: each word is written out as bytes, so the decoders evaluate. -/
theorem writtenOutWordsDecode : Obligations.WrittenOutWordsDecode := by
  unfold Obligations.WrittenOutWordsDecode
  exact ⟨rfl, rfl, rfl, rfl, rfl⟩

/-! ## A mock's write of CMD (R61, R62, R148; log 16) -/

/-- A mock's write is performed whatever moves are enabled. -/
theorem step_mockCommand {s : State} {ts : List Turn} {b : Byte} (ht : s.turns = .mockCommand b :: ts)
    (hf : s.fault = none) : step s = performMockCommand b { s with turns := ts } :=
  step_given s _ ts hf ht

/-- Settles O11: the values 0 to 5 are the six commands, and the decoder has no other. -/
theorem stepRunsOrRefusesAMockCommand : Obligations.StepRunsOrRefusesAMockCommand := by
  unfold Obligations.StepRunsOrRefusesAMockCommand
  intro s ts b ht hf
  rw [step_mockCommand ht hf]
  refine ⟨fun i hi => ?_, fun hb => ?_⟩
  · simp only [List.mem_cons, Prod.mk.injEq, List.not_mem_nil, or_false] at hi
    rcases hi with ⟨rfl, rfl⟩ | ⟨rfl, rfl⟩ | ⟨rfl, rfl⟩ | ⟨rfl, rfl⟩ | ⟨rfl, rfl⟩ | ⟨rfl, rfl⟩ <;> rfl
  · have hreserved : decodeCommand b = .error .reservedCmd := noReservedCommandReachesCmd.left b hb
    simp only [performMockCommand, fetchCommand, hreserved, refusalOf]

/-! ## A request over one payload (R63, R66, R70, R132, R135) -/

/-- The direction bit of an address byte is the one it was made with (R63). -/
theorem directionBit_addressByte (a : BitVec 7) (read : Bool) :
    directionBit (addressByte a read) = read := by
  rw [directionBit, addressByte, BitVec.getLsbD_append]
  cases read <;> rfl

/-- The payload vector filled to N + 1 entries (R29, R66). -/
theorem fillVec_payloadVec (p : Params) (buf size : Nat) :
    fillVec p (payloadVec buf size) = payloadVec buf size ++ List.replicate (p.n - 1) Segment.sentinel := by
  simp [fillVec, payloadVec]

/-- What an accepted request over one payload writes (R131). -/
theorem accept_payload (a : BitVec 7) (read : Bool) (buf size : Nat) (s : State) :
    accept (addressByte a read) (payloadVec buf size) s = { s with
      iov := payloadVec buf size ++ List.replicate (s.params.n - 1) Segment.sentinel
      segmentIndex := 0
      curSpace := .mem
      cursor := buf
      limit := buf + size
      transferredCount := 0
      address := addressByte a read
      role := if read then .controllerReceive else .controllerTransmit
      lifecycle := .active
      cmd := 0x01
      flags := flagsWord false (flagStopp s.flags)
      busLog := s.busLog ++ [(.start, s.data)] } := by
  rw [accept, fillVec_payloadVec, directionBit_addressByte]
  rfl

/-- A request is turned away while ACTIVE or with the engine off (R131). -/
theorem requestVec_refused {s : State} (ab : Byte) (vec : List Segment)
    (h : s.lifecycle = .active ∨ ctrlEn s.ctrl = false) :
    requestVec ab vec s = hostReturn (.result false) s :=
  if_pos ((requestRefused_iff s).mpr h)

/-- A request that is not turned away starts or faults by the contract on its vector (R130, R131). -/
theorem requestVec_admitted {s : State} (ab : Byte) (vec : List Segment) (hl : s.lifecycle ≠ .active)
    (he : ctrlEn s.ctrl = true) :
    requestVec ab vec s = if vecContract s.params vec then hostReturn (.result true) (accept ab vec s)
      else raiseFault .hostContractVec s :=
  if_neg (by simp [requestRefused_iff, hl, he])

/-- Settles O46: both are a request over the payload vector, whose contract is the two bounds. -/
theorem plainTransfersRequestOnePayload : Obligations.PlainTransfersRequestOnePayload := by
  unfold Obligations.PlainTransfersRequestOnePayload
  intro s a buf size i dir r _ hi
  obtain ⟨read, hexec, rfl, rfl⟩ : ∃ read : Bool,
      exec i s = .next (requestVec (addressByte a read) (payloadVec buf size) s) ∧
      dir = BitVec.ofBool read ∧ r = if read then .controllerReceive else .controllerTransmit := by
    simp only [List.mem_cons, Prod.mk.injEq, List.not_mem_nil, or_false] at hi
    rcases hi with ⟨rfl, rfl, rfl⟩ | ⟨rfl, rfl, rfl⟩
    · exact ⟨false, rfl, rfl, rfl⟩
    · exact ⟨true, rfl, rfl, rfl⟩
  have hcontract := payload_contract_iff s.params buf size
  rw [hexec]
  refine ⟨fun h => by rw [requestVec_refused _ _ h]; rfl, fun hl he => ?_⟩
  rw [requestVec_admitted _ _ hl he]
  refine ⟨fun h => ?_, fun h => ?_⟩
  · rw [if_pos (hcontract.mpr h), accept_payload]
    rfl
  · rw [if_neg (by rw [hcontract]; omega)]
    rfl

end Sys2Proof.Machine
end

section
/-!
PROOFS. The statements of spec/40_bus_engine.md: the six commands, the environment's two steps, what STATUS
and DATA keep while the engine is off, and that a stop wait ends along a weakly fair run.
-/

namespace Sys2Proof.Machine

/-! ## The turn that a step takes -/

/-- Taking a turn writes the turn list, of which it drops the first, and the draw index alone (log 5). -/
theorem nextTurn_eq (s : State) : ∃ k, (nextTurn s).2 = { s with turns := s.turns.tail, tick := k } := by
  rcases nextTurn_cases s with ⟨t, ts, ht, h⟩ | ⟨ht, h⟩ <;> rw [h]
  · exact ⟨s.tick, by rw [ht]; rfl⟩
  · exact ⟨s.tick + 1, by rw [ht]; rfl⟩

/-- Taking a turn enables and disables no move. -/
theorem enabled_nextTurn (m : Move) (s : State) : enabled m (nextTurn s).2 = enabled m s := by
  obtain ⟨k, h⟩ := nextTurn_eq s
  rw [h]
  exact enabled_turns m s s.turns.tail k

/-- With no turn given the free draw names an agent, never a mock (log 5, log 16). -/
theorem turnOf_ne_mockCommand {s : State} (ht : s.turns = []) (c : Byte) : turnOf s ≠ .mockCommand c := by
  simp [turnOf, nextTurn, ht]

/-- Every state of a run that goes on has no fault recorded (R149). -/
theorem isRun_fault {run : Nat → State} (hrun : IsRun run) (j : Nat) : (run j).fault = none :=
  (step_cases _ _ (hrun j)).1

/-! ## The commands (R72 to R78) -/

/-- A command other than STOP keeps STOPP. -/
theorem issue_of_ne_stop {c : Command} (hc : c ≠ .stop) (s : State) :
    issue c s = { s with
      cmd := c.code, flags := flagsWord false (flagStopp s.flags), busLog := s.busLog ++ [(c, s.data)] } := by
  simp [issue, hc]

/-- STOP sets STOPP. -/
theorem issue_stop_eq (s : State) :
    issue .stop s = { s with
      cmd := 0x02, flags := flagsWord false true, busLog := s.busLog ++ [(.stop, s.data)] } := rfl

/-- Settles O24: each of the six means `issue`, and STOP is the one that sets STOPP. -/
theorem everyCommandIssues : Obligations.EveryCommandIssues := by
  unfold Obligations.EveryCommandIssues
  intro s
  exact ⟨congrArg Host.Outcome.next (issue_of_ne_stop (c := .idle) nofun s),
    congrArg Host.Outcome.next (issue_of_ne_stop (c := .start) nofun s),
    congrArg Host.Outcome.next (issue_stop_eq s),
    congrArg Host.Outcome.next (issue_of_ne_stop (c := .data) nofun s),
    congrArg Host.Outcome.next (issue_of_ne_stop (c := .ack) nofun s),
    congrArg Host.Outcome.next (issue_of_ne_stop (c := .nack) nofun s)⟩

/-! ## The environment's two steps (R79, R80) -/

/-- The environment may raise an event exactly with EN = 1 and INTF = 0, whatever it draws (R79). -/
theorem enabled_busEvent_iff {s : State} (hf : s.fault = none) (st d : Byte) :
    enabled (.busEvent st d) s = true ↔ ctrlEn s.ctrl = true ∧ flagIntf s.flags = false := by
  simp [enabled, hf]

/-- The environment may clear STOPP exactly when it is set (R80). -/
theorem enabled_stopClear {s : State} (hf : s.fault = none) : enabled .stopClear s = flagStopp s.flags := by
  simp [enabled, hf]

/-- Settles O12: the event's move is enabled exactly under the stated condition. -/
theorem environmentRaisesAnyEvent : Obligations.EnvironmentRaisesAnyEvent := by
  unfold Obligations.EnvironmentRaisesAnyEvent
  intro s ts st d ht hf
  have henabled := enabled_busEvent_iff hf st d
  split
  · next hraise =>
    rw [step_given_enabled s _ ts hf ht (henabled.mpr hraise)]
    rfl
  · next hmasked =>
    exact step_given_pass s _ ts hf ht (Bool.eq_false_iff.mpr (mt henabled.mp hmasked))

/-- Settles O13: the stop-clear move is enabled exactly when STOPP is 1. -/
theorem environmentClearsTheStop : Obligations.EnvironmentClearsTheStop := by
  unfold Obligations.EnvironmentClearsTheStop
  intro s ts ht hf
  have henabled := enabled_stopClear hf
  split
  · next hset =>
    rw [step_given_enabled s _ ts hf ht (henabled.trans hset)]
    rfl
  · next hclear =>
    exact step_given_pass s _ ts hf ht (henabled.trans (Bool.eq_false_iff.mpr hclear))

/-! ## STATUS and DATA with the engine off (R81) -/

/-- The two registers that only a bus event of the environment and the sequencer's events write. -/
def SameStatusData (s u : State) : Prop := u.status = s.status ∧ u.data = s.data

theorem resume_sameStatusData (k : Continuation) (s : State) : SameStatusData s (resume k s) := by
  rcases resume_cases s k with ⟨-, h⟩ | ⟨-, h⟩ | ⟨-, -, h⟩ | ⟨-, -, -, h⟩ | ⟨-, -, -, h⟩ <;> rw [h] <;>
    exact ⟨rfl, rfl⟩

theorem configure_sameStatusData (a : Byte) (s : State) : SameStatusData s (configure a s) := by
  rcases configure_cases s a with ⟨-, h⟩ | ⟨-, h⟩ <;> rw [h] <;> exact ⟨rfl, rfl⟩

theorem nextTurn_sameStatusData (s : State) : SameStatusData s (nextTurn s).2 := by
  obtain ⟨k, h⟩ := nextTurn_eq s
  rw [h]
  exact ⟨rfl, rfl⟩

/-- No host operation writes STATUS or DATA. -/
theorem exec_hostOp_sameStatusData {i : Instr} {s u : State} (hf : i.format = .hostOp)
    (h : exec i s = .next u) : SameStatusData s u := by
  rcases exec_hostOp i s u hf h with ⟨rfl, -⟩ | ⟨r, rfl, -⟩ | ⟨r, rfl⟩ | ⟨n, a, -, -, rfl⟩ |
    ⟨-, -, rfl⟩ | ⟨-, -, ab, vec, h0, h1, -, -, rfl⟩ | ⟨b, n, -, -, rfl⟩ | ⟨b, n, -, -, rfl⟩ |
    ⟨-, -, rfl⟩
  case inr.inr.inr.inl =>
    exact configure_sameStatusData a { s with notifyTarget := n, ownAddress := a.setWidth 7 }
  all_goals exact ⟨rfl, rfl⟩

/-- With the engine off no interrupt is requested (R83). -/
theorem irq_of_engine_off {s : State} (hen : ctrlEn s.ctrl = false) : irq s = false := by
  simp [irq, hen]

/-- A step with the engine off writes neither register: neither kind of event step can be taken. -/
theorem step_sameStatusData_of_engine_off {s u : State} (hen : ctrlEn s.ctrl = false)
    (h : step s = .next u) : SameStatusData s u := by
  obtain ⟨-, v, rfl, hcases⟩ := step_cases s u h
  have hoff : ctrlEn (nextTurn s).2.ctrl = false := by
    obtain ⟨k, hv⟩ := nextTurn_eq s
    rw [hv]
    exact hen
  obtain ⟨hstatus, hdata⟩ := nextTurn_sameStatusData s
  rw [SameStatusData, ← hstatus, ← hdata]
  rcases hcases with ⟨m, -, -, rfl⟩ | ⟨-, -, hirq, -⟩ | ⟨k, -, -, -, rfl⟩ | ⟨i, rest, -, -, hd, -, hx⟩ |
    ⟨m, rest, -, -, -, -, -, rfl⟩ | ⟨a, b, -, -, -, -, rfl⟩ | ⟨bs, -, -, -, -, -, rfl⟩ |
    ⟨st, d, -, hon, -, -⟩ | ⟨-, -, rfl⟩ | ⟨c, i, -, hd, hx⟩
  case inr.inl => exact absurd hirq (by simp [irq_of_engine_off hoff])
  case inr.inr.inl => exact resume_sameStatusData k _
  case inr.inr.inr.inl =>
    have hkept := exec_hostOp_sameStatusData (fetchHostOp_format hd) hx
    exact hkept
  case inr.inr.inr.inr.inr.inr.inr.inl => exact absurd hon (by simp [hoff])
  case inr.inr.inr.inr.inr.inr.inr.inr.inr =>
    obtain ⟨c, rfl⟩ := exec_command i _ u (decodeCommand_format hd) hx
    exact ⟨rfl, rfl⟩
  all_goals exact ⟨rfl, rfl⟩

/-- Settles O16: both event steps need EN = 1, and no other step writes STATUS or DATA. -/
theorem engineOffRaisesNoEvent : Obligations.EngineOffRaisesNoEvent := by
  unfold Obligations.EngineOffRaisesNoEvent
  intro s hen
  refine ⟨fun st d => ?_, fun hp => ?_, fun u h => step_sameStatusData_of_engine_off hen h⟩
  · simp [enabled, hen]
  · simp [enabled, sequencerEnabled, hp, irq_of_engine_off hen]

/-! ## The end of a stop wait (R80, R90, R150) -/

/-- The return from a stop wait is to phase READY, or the post of the target-receive stop faults (R90). -/
theorem resume_ready_or_fault (k : Continuation) (s : State) :
    (resume k s).phase = .ready ∨ (resume k s).fault ≠ none := by
  rcases resume_cases s k with ⟨-, h⟩ | ⟨-, h⟩ | ⟨-, -, h⟩ | ⟨-, -, -, h⟩ | ⟨-, -, -, h⟩ <;> rw [h] <;>
    simp

/-- What a step can be that leaves the stop wait standing: a pass, one of the environment's two steps, or a
mock's command. -/
def WaitStep (s u : State) : Prop :=
  (∃ m, turnOf s = .agent m ∧ enabled m s = false ∧ u = (nextTurn s).2) ∨
  (∃ st d, turnOf s = .agent (.busEvent st d) ∧ u = raiseEvent st d (nextTurn s).2) ∨
  (turnOf s = .agent .stopClear ∧ u = clearStop (nextTurn s).2) ∨
  (∃ b c, turnOf s = .mockCommand b ∧ u = issue c (nextTurn s).2)

/-- The host has no move in the wait (R142 a) and the sequencer only its resume step (R90). -/
theorem step_inside_stop_wait {s u : State} (h : step s = .next u) (hs : s.phase ≠ .ready)
    (hu : u.phase ≠ .ready) (hf : u.fault = none) : WaitStep s u := by
  obtain ⟨n, hv⟩ := nextTurn_eq s
  have hwait : (nextTurn s).2.phase ≠ .ready := by rw [hv]; exact hs
  obtain ⟨-, v, rfl, hcases⟩ := step_cases s u h
  rcases hcases with ⟨m, ht, hm, rfl⟩ | ⟨-, hp, -⟩ | ⟨k, -, -, -, rfl⟩ | ⟨i, rest, -, hp, -⟩ |
    ⟨m, rest, -, hp, -⟩ | ⟨a, b, -, hp, -⟩ | ⟨bs, -, hp, -⟩ | ⟨st, d, ht, -, -, rfl⟩ | ⟨ht, -, rfl⟩ |
    ⟨b, i, ht, hd, hx⟩
  case inl => exact .inl ⟨m, ht, (enabled_nextTurn m s).symm.trans hm, rfl⟩
  case inr.inr.inl => exact absurd hf ((resume_ready_or_fault k _).resolve_left hu)
  case inr.inr.inr.inr.inr.inr.inr.inl => exact .inr (.inl ⟨st, d, ht, rfl⟩)
  case inr.inr.inr.inr.inr.inr.inr.inr.inl => exact .inr (.inr (.inl ⟨ht, rfl⟩))
  case inr.inr.inr.inr.inr.inr.inr.inr.inr =>
    obtain ⟨c, rfl⟩ := exec_command i _ u (decodeCommand_format hd) hx
    exact .inr (.inr (.inr ⟨b, c, ht, rfl⟩))
  all_goals exact absurd hp hwait

/-- In a stop wait with STOPP 0 the sequencer has its resume step (R90). -/
theorem enabled_sequencer_of_stopp_clear {s : State} (hf : s.fault = none) (hp : s.phase ≠ .ready)
    (hc : flagStopp s.flags = false) : enabled .sequencer s = true := by
  cases hph : s.phase with
  | ready => exact absurd hph hp
  | waitStop k => simp [enabled, sequencerEnabled, hf, hph, hc]

/-- A run that from `k` on never comes back to phase READY. -/
def WaitsFrom (k : Nat) (run : Nat → State) : Prop := ∀ j, k ≤ j → (run j).phase ≠ .ready

section
variable {run : Nat → State} {k : Nat} (hrun : IsRun run) (hwait : WaitsFrom k run)
include hrun hwait

theorem waitsFrom_step {j : Nat} (hj : k ≤ j) : WaitStep (run j) (run (j + 1)) :=
  step_inside_stop_wait (hrun j) (hwait j hj) (hwait (j + 1) (by omega)) (isRun_fault hrun (j + 1))

/-- Each of its steps takes a turn off the list and gives none. -/
theorem waitsFrom_turns (n : Nat) : (run (k + n)).turns = (run k).turns.drop n := by
  induction n with
  | zero => rfl
  | succ n ih =>
    obtain ⟨tick, hv⟩ := nextTurn_eq (run (k + n))
    rw [← List.tail_drop, ← ih, ← Nat.add_assoc]
    rcases waitsFrom_step hrun hwait (Nat.le_add_right k n) with ⟨m, -, -, h⟩ | ⟨st, d, -, h⟩ | ⟨-, h⟩ |
      ⟨b, c, -, h⟩ <;> rw [h, hv] <;> rfl

/-- From some point on no turn is given, so that no mock writes CMD any more. -/
theorem waitsFrom_turns_eventually_nil : ∃ m, k ≤ m ∧ ∀ j, m ≤ j → (run j).turns = [] := by
  refine ⟨k + (run k).turns.length, Nat.le_add_right _ _, fun j hj => ?_⟩
  obtain ⟨n, rfl⟩ := Nat.exists_eq_add_of_le (show k ≤ j by omega)
  rw [waitsFrom_turns hrun hwait n, List.drop_eq_nil_iff]
  omega

/-- A STOPP that is 0 stays 0 where no mock writes CMD, for no other step of the wait issues STOP. -/
theorem waitsFrom_stopp_stays_clear {j : Nat} (hj : k ≤ j) (ht : (run j).turns = [])
    (hc : flagStopp (run j).flags = false) : flagStopp (run (j + 1)).flags = false := by
  obtain ⟨tick, hv⟩ := nextTurn_eq (run j)
  rcases waitsFrom_step hrun hwait hj with ⟨m, -, -, h⟩ | ⟨st, d, -, h⟩ | ⟨-, h⟩ | ⟨b, c, hmock, -⟩
  · rw [h, hv]; exact hc
  · rw [h, hv]; simpa using hc
  · rw [h]; simp
  · exact absurd hmock (turnOf_ne_mockCommand ht b)

/-- The stop-clear step clears STOPP; a turn of it that passes finds it clear. -/
theorem waitsFrom_stopClear {j : Nat} (hj : k ≤ j) (ht : turnOf (run j) = .agent .stopClear) :
    flagStopp (run (j + 1)).flags = false := by
  obtain ⟨tick, hv⟩ := nextTurn_eq (run j)
  rcases waitsFrom_step hrun hwait hj with ⟨m, hm, hd, h⟩ | ⟨st, d, hm, -⟩ | ⟨-, h⟩ | ⟨b, c, hm, -⟩
  · cases ht.symm.trans hm
    rw [enabled_stopClear (isRun_fault hrun j)] at hd
    rw [h, hv]
    exact hd
  · cases ht.symm.trans hm
  · rw [h]; simp
  · cases ht.symm.trans hm

/-- No turn of the sequencer in it finds its move enabled, for the resume step ends the wait. -/
theorem waitsFrom_sequencer_disabled {j : Nat} (hj : k ≤ j) (ht : turnOf (run j) = .agent .sequencer) :
    enabled .sequencer (run j) = false := by
  rcases waitsFrom_step hrun hwait hj with ⟨m, hm, hd, -⟩ | ⟨st, d, hm, -⟩ | ⟨hm, -⟩ | ⟨b, c, hm, -⟩ <;>
    cases ht.symm.trans hm
  exact hd

/-- Fairness to the stop-clear step clears STOPP at some point. -/
theorem waitsFrom_stopp_clears (hfair : FairTo .stopClear run) :
    ∃ j, k ≤ j ∧ flagStopp (run j).flags = false := by
  by_contra hnone
  have hset : ∀ j, k ≤ j → flagStopp (run j).flags = true := fun j hj => by
    by_contra hc
    exact hnone ⟨j, hj, Bool.eq_false_iff.mpr hc⟩
  obtain ⟨j, hj, ht⟩ := hfair k fun j hj => (enabled_stopClear (isRun_fault hrun j)).trans (hset j hj)
  exact hnone ⟨j + 1, by omega, waitsFrom_stopClear hrun hwait hj ht⟩

end

/-- No weakly fair run waits for ever: once the given turns have run out no mock sets STOPP again, so
the stop-clear step clears it for good, and then the sequencer's resume step is due. -/
theorem not_waitsFrom {run : Nat → State} (hrun : IsRun run) (hseq : FairTo .sequencer run)
    (hclear : FairTo .stopClear run) (k : Nat) : ¬ WaitsFrom k run := by
  intro hwait
  obtain ⟨m, hkm, hnil⟩ := waitsFrom_turns_eventually_nil hrun hwait
  have hwait_m : WaitsFrom m run := fun j hj => hwait j (hkm.trans hj)
  obtain ⟨c, hmc, hc⟩ := waitsFrom_stopp_clears hrun hwait_m hclear
  have hstays : ∀ j, c ≤ j → flagStopp (run j).flags = false := fun j hj =>
    Nat.le_induction (P := fun j _ => flagStopp (run j).flags = false) hc
      (fun j hj ih => waitsFrom_stopp_stays_clear hrun hwait_m (hmc.trans hj) (hnil j (hmc.trans hj)) ih) j hj
  have henabled : ∀ j, c ≤ j → enabled .sequencer (run j) = true := fun j hj =>
    enabled_sequencer_of_stopp_clear (isRun_fault hrun j) (hwait_m j (hmc.trans hj)) (hstays j hj)
  obtain ⟨j, hj, ht⟩ := hseq c henabled
  have hdisabled := waitsFrom_sequencer_disabled hrun hwait_m (hmc.trans hj) ht
  exact absurd (henabled j hj) (by simp [hdisabled])

/-- Settles O17: a run with no later point in phase READY would wait for ever. -/
theorem everyStopWaitEnds : Obligations.EveryStopWaitEnds := by
  unfold Obligations.EveryStopWaitEnds
  rintro run hrun ⟨hseq, -, -, hclear⟩ k
  by_contra hnone
  exact not_waitsFrom hrun hseq hclear k fun j hj hp => hnone ⟨j, hj, hp⟩

end Sys2Proof.Machine
end

section
/-!
PROOFS. The statement that cites spec/41_status_decoder.md: an event's meaning at two states that differ
in `role` and `lifecycle` alone.
-/

namespace Sys2Proof.Machine

/-! ## Role and lifecycle are no inputs of a transition (R86) -/

/-- A state with another role and lifecycle. -/
def withRole (r : Role) (l : Lifecycle) (s : State) : State := { s with role := r, lifecycle := l }

/-- What is left of an answer once its state's role and lifecycle are fixed. -/
def forgetRole : Result → Result
  | .next u => .next (withRole .none .idle u)
  | x => x

/-- A meaning answers the same, but for role and lifecycle, whatever role and lifecycle it starts from. -/
def IgnoresRole (f : State → Result) : Prop :=
  ∀ r l s, forgetRole (f (withRole r l s)) = forgetRole (f s)

/-- An answer that is the same but for role and lifecycle is a next state with these two changed. -/
theorem IgnoresRole.next_withRole {f : State → Result} (hf : IgnoresRole f) {s u : State}
    (hu : f s = .next u) (r : Role) (l : Lifecycle) :
    ∃ v, f (withRole r l s) = .next v ∧ withRole u.role u.lifecycle v = u := by
  have same : forgetRole (f (withRole r l s)) = .next (withRole .none .idle u) := by rw [hf, hu]; rfl
  cases hv : f (withRole r l s) with
  | next v =>
    rw [hv] at same
    have alike : withRole .none .idle v = withRole .none .idle u := Host.Outcome.next.inj same
    have restored := congrArg (withRole u.role u.lifecycle) alike
    exact ⟨v, rfl, restored⟩
  | fault x => rw [hv] at same; cases same
  | refused x => rw [hv] at same; cases same

/-- A choice by what is neither role nor lifecycle. -/
theorem IgnoresRole.ite {c : State → Prop} [DecidablePred c] {f g : State → Result}
    (hc : ∀ r l s, c (withRole r l s) ↔ c s) (hf : IgnoresRole f) (hg : IgnoresRole g) :
    IgnoresRole (fun s => if c s then f s else g s) := by
  intro r l s
  by_cases hs : c s
  · simpa only [hc, if_pos hs] using hf r l s
  · simpa only [hc, if_neg hs] using hg r l s

/-- An access of the cursor reads neither. -/
theorem IgnoresRole.atCursor {f : State → State} (hf : IgnoresRole (fun s => .next (f s))) :
    IgnoresRole (fun s => Machine.atCursor s (f s)) :=
  .ite (fun _ _ _ => Iff.rfl) hf fun _ _ _ => rfl

/-- A meaning after an update that leaves both and reads neither. -/
theorem IgnoresRole.comp {f : State → Result} {g : State → State} (hf : IgnoresRole f)
    (hg : ∀ r l s, g (withRole r l s) = withRole r l (g s)) : IgnoresRole (fun s => f (g s)) := by
  intro r l s
  simpa only [hg] using hf r l (g s)

/-! ### The shared actions -/

theorem segWrite_withRole (sp : Space) (a : Nat) (v : Byte) (r : Role) (l : Lifecycle) (s : State) :
    segWrite sp a v (withRole r l s) = withRole r l (segWrite sp a v s) := by
  unfold segWrite withRole
  cases sp with
  | mem => rfl
  | hdr => dsimp only; (repeat' split) <;> rfl

theorem storeByte_withRole (r : Role) (l : Lifecycle) (s : State) :
    storeByte (withRole r l s) = withRole r l (storeByte s) :=
  congrArg (fun t : State => { t with
    cursor := s.cursor + 1, transferredCount := countSucc s.params s.transferredCount })
    (segWrite_withRole s.curSpace s.cursor s.data r l s)

theorem ctAdvance_withRole (r : Role) (l : Lifecycle) (s : State) :
    ctAdvance (withRole r l s) = withRole r l (ctAdvance s) := by
  unfold ctAdvance
  change (if s.cursor = s.limit ∧ s.segmentIndex < s.params.n then _ else _) = _
  split <;> rfl

theorem ignoresRole_ctSend : IgnoresRole ctSend :=
  .comp (f := ctSendOrStop)
    (.ite (fun _ _ _ => Iff.rfl) (.atCursor fun _ _ _ => rfl) fun _ _ _ => rfl) ctAdvance_withRole

theorem ignoresRole_crAckDecide : IgnoresRole (fun s => .next (crAckDecide s)) := by
  intro r l s
  simp only [crAckDecide_eq]
  rfl

theorem ignoresRole_crStore {after : State → State} (ha : IgnoresRole (fun s => .next (after s))) :
    IgnoresRole (crStore after) :=
  .ite (fun _ _ _ => Iff.rfl) (fun _ _ _ => rfl)
    (.atCursor (.comp (f := fun s => .next (after s)) ha storeByte_withRole))

theorem ignoresRole_ttSend : IgnoresRole ttSend :=
  .ite (fun _ _ _ => Iff.rfl) (.atCursor fun _ _ _ => rfl) fun _ _ _ => rfl

theorem ignoresRole_trStore : IgnoresRole trStore :=
  .ite (fun _ _ _ => Iff.rfl)
    (.atCursor (.comp (f := fun s => .next (issue .ack s)) (fun _ _ _ => rfl) storeByte_withRole))
    fun _ _ _ => rfl

/-- Each row of the table of R86 ignores role and lifecycle: the rows with a choice by their action, the
others because they answer one next state, written without reading either. -/
theorem exec_event_ignoresRole {i : Instr} (hf : i.format = .status) : IgnoresRole (exec i) := by
  cases i
  case evCtAddrAck | evCtDataAck => exact ignoresRole_ctSend
  case evCrAddrAck => exact ignoresRole_crAckDecide
  case evCrDataAck => exact ignoresRole_crStore ignoresRole_crAckDecide
  case evCrDataNack => exact ignoresRole_crStore (after := stopThen .kIdle) fun _ _ _ => rfl
  case evTtAddrAck | evTtArbLostAddrAck =>
    -- The selection writes role and lifecycle, so that what they held is gone before the send.
    exact fun _ _ _ => rfl
  case evTtDataAck => exact ignoresRole_ttSend
  case evTrDataAck | evTrGcallDataAck => exact ignoresRole_trStore
  case evStart | evRepStart | evArbLost | evCtDataNack | evCtAddrNack | evCrAddrNack | evTtDataNack |
      evTtLastData | evTrAddrAck | evTrArbLostAddrAck | evTrGcallAck | evTrArbLostGcallAck | evTrStop |
      evBusError | evTrDataNack | evTrGcallDataNack | evTtAddrNack | evTrAddrNack | evNoInfo |
      evUnrecognizedD0 | evUnrecognizedD8 | evUnrecognizedE0 | evUnrecognizedE8 | evUnrecognizedF0 =>
    exact fun _ _ _ => rfl
  all_goals cases hf

/-- Settles O54: the event ignores the two, so its answer from other ones is a next state again. -/
theorem transitionsIgnoreRoleAndLifecycle : Obligations.TransitionsIgnoreRoleAndLifecycle := by
  unfold Obligations.TransitionsIgnoreRoleAndLifecycle
  intro i s u r l hf hu
  exact (exec_event_ignoresRole hf).next_withRole hu r l

end Sys2Proof.Machine
end

section
/-!
PROOFS. The statements of spec/42_sequencer_controller.md: the events that answer one next state whatever the
state holds, the return from the stop wait alone and after a stop path, and a whole transmit to a target that
acknowledges every byte.
-/

namespace Sys2Proof.Machine

/-! ## The events (R88 to R93, R97 to R100, R103) -/

/-- Settles O53: what `IssuesOne` says of the one command is what the statement asks. -/
theorem everyEventIssuesOneCommandOrFaults : Obligations.EveryEventIssuesOneCommandOrFaults := by
  unfold Obligations.EveryEventIssuesOneCommandOrFaults
  intro i s u hf hx
  rcases exec_event_issuesOne hf hx with ⟨c, hcmd, hlog, hintf, -, hfault⟩ | hraise
  · exact .inl ⟨c, u.data, hlog, hcmd, rfl, hintf, hfault⟩
  · exact .inr hraise

/-- The address byte goes to DATA and out with the DATA command (R91). -/
theorem sendAddress_eq (s : State) : sendAddress s = { s with
    data := s.address, cmd := 0x03, flags := flagsWord false (flagStopp s.flags)
    busLog := s.busLog ++ [(.data, s.address)] } :=
  issue_of_ne_stop (c := .data) nofun { s with data := s.address }

/-- START and REP_START send the address byte (R91, R92). -/
theorem exec_sendAddress {i : Instr} (hi : i ∈ [Instr.evStart, .evRepStart]) (s : State) :
    exec i s = .next (sendAddress s) := by
  simp only [List.mem_cons, List.not_mem_nil, or_false] at hi
  rcases hi with rfl | rfl <;> rfl

/-- Settles O26, by what sending the address byte writes. -/
theorem startEventsSendTheAddress : Obligations.StartEventsSendTheAddress := by
  unfold Obligations.StartEventsSendTheAddress
  intro s i hi
  rw [exec_sendAddress hi, sendAddress_eq]

/-- Settles O27: the command is IDLE, which keeps STOPP. -/
theorem arbitrationLostMarksTheError : Obligations.ArbitrationLostMarksTheError := by
  unfold Obligations.ArbitrationLostMarksTheError
  intro s
  exact congrArg (fun t : State => Host.Outcome.next
    { t with lifecycle := .error, transferredCount := -1 }) (issue_of_ne_stop (c := .idle) nofun s)

/-- Settles O33: room for more than one byte asks ACK. -/
theorem receiveAddressAckDecidesTheAck : Obligations.ReceiveAddressAckDecidesTheAck := by
  unfold Obligations.ReceiveAddressAckDecidesTheAck
  intro s _
  have hexec : exec .evCrAddrAck s =
      .next (issue (if s.cursor + 1 < s.limit then .ack else .nack) s) :=
    congrArg Host.Outcome.next (crAckDecide_eq s)
  refine ⟨fun hroom => ?_, fun hlast => ?_⟩
  · rw [hexec, if_pos hroom]
    exact congrArg Host.Outcome.next (issue_of_ne_stop (c := .ack) nofun s)
  · rw [hexec, if_neg (by omega)]
    exact congrArg Host.Outcome.next (issue_of_ne_stop (c := .nack) nofun s)

/-- The events whose whole transition is a stop path, each with its continuation (R97, R98, R103, R120,
R121 to R126). -/
def stopEvents : List (Instr × Continuation) :=
  [(.evCtDataNack, .kIdle), (.evCtAddrNack, .kError), (.evCrAddrNack, .kError), (.evTrStop, .kTrDone),
    (.evBusError, .kError), (.evTrDataNack, .kError), (.evTrGcallDataNack, .kError),
    (.evTtAddrNack, .kError), (.evTrAddrNack, .kError), (.evNoInfo, .kError)]

/-- Each of them is STOP_THEN of its continuation (R89). -/
theorem exec_stopThen {i : Instr} {k : Continuation} (h : (i, k) ∈ stopEvents) (s : State) :
    exec i s = .next (stopThen k s) := by
  simp only [stopEvents, List.mem_cons, Prod.mk.injEq, List.not_mem_nil, or_false] at h
  rcases h with ⟨rfl, rfl⟩ | ⟨rfl, rfl⟩ | ⟨rfl, rfl⟩ | ⟨rfl, rfl⟩ | ⟨rfl, rfl⟩ | ⟨rfl, rfl⟩ |
    ⟨rfl, rfl⟩ | ⟨rfl, rfl⟩ | ⟨rfl, rfl⟩ | ⟨rfl, rfl⟩ <;> rfl

/-- Settles O30: the ten events are `stopEvents`, and STOP_THEN writes the four fields. -/
theorem stopPathsIssueStopAndWait : Obligations.StopPathsIssueStopAndWait := by
  unfold Obligations.StopPathsIssueStopAndWait
  exact fun s i k hi => exec_stopThen hi s

/-! ## The return from the stop wait (R90, R140) -/

/-- The return from a target-receive stop: the filter goes off, and the count is posted, unless nobody is
registered, or the slot is full, which faults and keeps the wait (R120, R140). -/
theorem resume_trDone_eq (s : State) : resume .kTrDone s = { s with
    lifecycle := .idle
    taddr := 0x00
    nslot :=
      if s.notifyTarget = Recipient.null ∨ s.nslot.full = true then s.nslot
      else ⟨true, s.notifyTarget, s.transferredCount⟩
    phase :=
      if s.notifyTarget ≠ Recipient.null ∧ s.nslot.full = true then s.phase else .ready
    fault :=
      if s.notifyTarget ≠ Recipient.null ∧ s.nslot.full = true then some .notifyOverrun
      else s.fault } := by
  rcases resume_cases s .kTrDone with ⟨hk, -⟩ | ⟨hk, -⟩ | ⟨-, hn, h⟩ | ⟨-, hn, hfull, h⟩ |
    ⟨-, hn, hfull, h⟩
  · cases hk
  · cases hk
  · simp [h, hn]
  · simp [h, hn, hfull]
  · simp [h, hn, hfull]

/-- In the sequencer's turn a stop wait ends once STOPP is 0. -/
theorem step_resume {s : State} {k : Continuation} {ts : List Turn}
    (ht : s.turns = .agent .sequencer :: ts) (hf : s.fault = none) (hp : s.phase = .waitStop k)
    (hc : flagStopp s.flags = false) : step s = .next (resume k { s with turns := ts }) := by
  have henabled := enabled_sequencer_of_stopp_clear hf (by simp [hp]) hc
  rw [step_given_enabled s .sequencer ts hf ht henabled]
  simp only [performMove, performSequencer, hp]

/-- While STOPP is 1 the sequencer has no step in a stop wait. -/
theorem sequencer_disabled_of_stopp {s : State} {k : Continuation} (hp : s.phase = .waitStop k)
    (hc : flagStopp s.flags = true) : enabled .sequencer s = false := by
  simp [enabled, sequencerEnabled, hp, hc]

/-- Settles O10: with STOPP set the turn passes; with it clear the continuation is performed. -/
theorem resumeStepPerformsTheContinuation : Obligations.ResumeStepPerformsTheContinuation := by
  unfold Obligations.ResumeStepPerformsTheContinuation
  intro s ts ht hf
  refine ⟨fun k hp hc => step_given_pass s .sequencer ts hf ht (sequencer_disabled_of_stopp hp hc),
    fun hc => ⟨fun hp => step_resume ht hf hp hc, fun hp => step_resume ht hf hp hc,
      fun hp hn => ?_, fun hp hn hfull => ?_, fun hp hn hfull => ?_⟩⟩
  · rw [step_resume ht hf hp hc, resume_trDone_eq]
    simp [hn]
  · rw [step_resume ht hf hp hc, resume_trDone_eq]
    simp [hn, hfull]
  · rw [step_resume ht hf hp hc, resume_trDone_eq]
    simp [hn, hfull]

/-! ## A stop path and its wait (R97, R98, R103, R120 to R126) -/

/-- A stop path seen once STOPP has cleared, in the sequencer's turn: the continuation is performed. -/
theorem step_stopThen {s : State} (k : Continuation) (ts : List Turn) (hf : s.fault = none) :
    step { stopThen k s with flags := flagsWord false false, turns := .agent .sequencer :: ts } =
      .next (resume k { stopThen k s with flags := flagsWord false false, turns := ts }) :=
  step_resume rfl hf rfl (flagStopp_flagsWord false false)

/-- Settles O31: the eight events take the stop path to K_ERROR. -/
theorem errorPathEndsInError : Obligations.ErrorPathEndsInError := by
  unfold Obligations.ErrorPathEndsInError
  intro s i ts hi hf
  have hstop : (i, .kError) ∈ stopEvents := by
    simp only [List.mem_cons, List.not_mem_nil, or_false] at hi
    rcases hi with rfl | rfl | rfl | rfl | rfl | rfl | rfl | rfl <;> simp [stopEvents]
  exact ⟨_, exec_stopThen hstop s, step_stopThen .kError ts hf⟩

/-- Settles O32: a data NACK takes the stop path to K_IDLE, which keeps the count. -/
theorem dataNackEndsIdleWithTheCount : Obligations.DataNackEndsIdleWithTheCount := by
  unfold Obligations.DataNackEndsIdleWithTheCount
  exact fun s ts hf => ⟨_, exec_stopThen (by decide) s, step_stopThen .kIdle ts hf⟩

/-- Settles O41: a target-receive stop takes the stop path to K_TR_DONE. -/
theorem targetStopPostsTheCount : Obligations.TargetStopPostsTheCount := by
  unfold Obligations.TargetStopPostsTheCount
  intro s ts hf
  refine ⟨_, exec_stopThen (k := .kTrDone) (by decide) s, ?_⟩
  rw [step_stopThen .kTrDone ts hf, resume_trDone_eq]
  simp only [stopThen_fault, hf]
  rfl

/-! ## A transmit whose every byte is acknowledged (R89, R91, R94 to R96, R132) -/

/-- A run goes on from where its first instruction leads. -/
theorem execAll_cons {i : Instr} {s t : State} (h : exec i s = .next t) (is : List Instr) :
    execAll (i :: is) s = execAll is t := by
  simp only [execAll, h]

/-- The walk of a transmit stands in data memory with `n` bytes left to send, a sentinel after them, and
room for them in the count. -/
def PayloadLeft (n : Nat) (s : State) : Prop :=
  s.curSpace = .mem ∧ s.cursor + n = s.limit ∧ s.segmentIndex < s.params.n ∧
    s.iov[s.segmentIndex + 1]? = some Segment.sentinel ∧
    s.transferredCount + n < 2 ^ (s.params.cw - 1)

/-- From `s` to `t` the `n` bytes from the cursor on are sent and counted, and the stop wait to IDLE is
entered; memory and the lifecycle stay. -/
def SendsThenStops (n : Nat) (s t : State) : Prop :=
  t.phase = .waitStop .kIdle ∧ t.transferredCount = s.transferredCount + n ∧
    t.lifecycle = s.lifecycle ∧ t.mem = s.mem ∧
    t.busLog = s.busLog ++ (List.range n).map (fun k => (.data, memRead s.mem (s.cursor + k))) ++
      [(.stop, t.data)]

/-- Where a byte of the payload is left, an acknowledgement sends it. -/
theorem exec_ack_byte {i : Instr} {s : State} {n : Nat} (hi : i ∈ [Instr.evCtAddrAck, .evCtDataAck])
    (hI : Inv s) (h : PayloadLeft (n + 1) s) :
    ∃ u, exec i s = .next u ∧ PayloadLeft n u ∧ u.cursor = s.cursor + 1 ∧
      u.transferredCount = s.transferredCount + 1 ∧ u.lifecycle = s.lifecycle ∧ u.mem = s.mem ∧
      u.busLog = s.busLog ++ [(.data, memRead s.mem s.cursor)] := by
  obtain ⟨hsp, hend, hk, he, hc⟩ := h
  obtain ⟨hbyte, -, -⟩ := transmitAcksSendTheNextByte s i hi hI
  have hsend := hbyte (by omega) (by omega)
  rw [hsp] at hsend
  exact ⟨_, hsend, ⟨rfl, by simp only; omega, hk, he, by simp only; omega⟩, rfl, rfl, rfl, rfl, rfl⟩

/-- Where none is left, an acknowledgement takes the stop path at the sentinel. -/
theorem exec_ack_stop {i : Instr} {s : State} (hi : i ∈ [Instr.evCtAddrAck, .evCtDataAck])
    (hI : Inv s) (h : PayloadLeft 0 s) : ∃ u, exec i s = .next u ∧ SendsThenStops 0 s u := by
  obtain ⟨-, hend, hk, he, -⟩ := h
  obtain ⟨-, hexhausted, -⟩ := transmitAcksSendTheNextByte s i hi hI
  obtain ⟨-, hempty⟩ := hexhausted hend hk _ he
  exact ⟨_, hempty (.inl rfl), rfl, by simp, rfl, rfl, by simp⟩

/-- One byte and then `n` are `n + 1` bytes. -/
theorem sendsThenStops_succ {n : Nat} {s u t : State} (hcur : u.cursor = s.cursor + 1)
    (hcount : u.transferredCount = s.transferredCount + 1) (hlife : u.lifecycle = s.lifecycle)
    (hmem : u.mem = s.mem) (hlog : u.busLog = s.busLog ++ [(.data, memRead s.mem s.cursor)])
    (h : SendsThenStops n u t) : SendsThenStops (n + 1) s t := by
  obtain ⟨hphase, htcount, htlife, htmem, htlog⟩ := h
  refine ⟨hphase, ?_, htlife.trans hlife, htmem.trans hmem, ?_⟩
  · rw [htcount, hcount]
    push_cast
    ring
  · rw [htlog, hlog, hmem, hcur]
    simp [List.range_succ_eq_map, Nat.add_assoc, Nat.add_comm 1, Function.comp_def]

/-- By induction on the bytes left: each acknowledgement but the last sends one, and the last stops. -/
theorem execAll_acks {n : Nat} {i : Instr} {s : State} (hi : i ∈ [Instr.evCtAddrAck, .evCtDataAck])
    (hI : Inv s) (h : PayloadLeft n s) :
    ∃ t, execAll (i :: List.replicate n .evCtDataAck) s = .next t ∧ SendsThenStops n s t := by
  induction n generalizing i s with
  | zero =>
    obtain ⟨t, hstop, hsent⟩ := exec_ack_stop hi hI h
    exact ⟨t, execAll_cons hstop [], hsent⟩
  | succ n ih =>
    obtain ⟨u, hsend, hleft, hcur, hcount, hlife, hmem, hlog⟩ := exec_ack_byte hi hI h
    have hformat : i.format = .status := by
      simp only [List.mem_cons, List.not_mem_nil, or_false] at hi
      rcases hi with rfl | rfl <;> rfl
    obtain ⟨t, hrun, hsent⟩ := ih (i := .evCtDataAck) (by decide) (exec_event_inv hformat hI hsend) hleft
    exact ⟨t, (execAll_cons hsend _).trans hrun, sendsThenStops_succ hcur hcount hlife hmem hlog hsent⟩

/-- A write within the contract is accepted by an idle block whose engine is on (R131, R132). -/
theorem exec_writeRequest_accepted {s : State} (a : BitVec 7) {buf size : Nat}
    (hl : s.lifecycle ≠ .active) (he : ctrlEn s.ctrl = true) (hend : buf + size ≤ 2 ^ s.params.aw)
    (hmax : size ≤ s.params.countMax) :
    exec (.writeRequest a buf size) s =
      .next (hostReturn (.result true) (accept (addressByte a false) (payloadVec buf size) s)) := by
  have hcontract := (payload_contract_iff s.params buf size).mpr ⟨hend, hmax⟩
  change Host.Outcome.next (requestVec _ _ s) = _
  rw [requestVec_admitted _ _ hl he, if_pos hcontract]

/-- The request leaves the whole payload to be sent, and START moves no walk. -/
theorem payloadLeft_sendAddress_accept {s : State} (hp : s.params.wf) (a : BitVec 7) (buf : Nat)
    {size : Nat} (hmax : size ≤ s.params.countMax) :
    PayloadLeft size (sendAddress
      (hostReturn (.result true) (accept (addressByte a false) (payloadVec buf size) s))) := by
  obtain ⟨hn, -, -, hcount, -⟩ := hp
  have hfits : (size : Int) < 2 ^ (s.params.cw - 1) := by exact_mod_cast hmax.trans_lt hcount
  rw [sendAddress_eq, accept_payload]
  exact ⟨rfl, rfl, by simp only [hostReturn_params, hostReturn_segmentIndex]; omega, rfl,
    by simpa using hfits⟩

/-- Settles O52: the request and START leave the payload to be sent, and the acknowledgements send it. -/
theorem alwaysAckedWriteSendsEveryByte : Obligations.AlwaysAckedWriteSendsEveryByte := by
  unfold Obligations.AlwaysAckedWriteSendsEveryByte
  intro s a buf size hI hl he hbuf hsize hend hmax
  have hrequest := exec_writeRequest_accepted a hl he hend hmax
  have hstart := exec_sendAddress (i := .evStart) (by decide)
    (hostReturn (.result true) (accept (addressByte a false) (payloadVec buf size) s))
  have hwf : (Instr.writeRequest a buf size).wellFormed s.params = true := by
    simp [Instr.wellFormed, bufWellFormed, inWidth, hbuf, hsize]
  have hIstart := exec_event_inv rfl (exec_hostOp_inv rfl hwf hI hrequest) hstart
  have hleft := payloadLeft_sendAddress_accept (paramsWf_of_inv hI) a buf hmax
  obtain ⟨t, hrun, hphase, hcount, hlife, hmem, hlog⟩ :=
    execAll_acks (i := .evCtAddrAck) (by decide) hIstart hleft
  rw [sendAddress_eq, accept_payload] at hcount hlife hmem hlog
  exact ⟨t, by rw [execAll_cons hrequest, execAll_cons hstart, hrun], hphase, by simpa using hcount,
    hlife, hmem, by simpa [addressByte] using hlog⟩

end Sys2Proof.Machine
end

section
/-!
PROOFS. The statements of spec/43_sequencer_target.md: the target-transmit, the selection for a write and the
unrecognized codes.
-/

namespace Sys2Proof.Machine

/-! ## Target transmit (R104 to R111) -/

/-- A byte that remains is sent with ACK, and is not counted (R105). -/
theorem ttSend_room {s : State} (hw : WalkOk s) (h : s.cursor < s.limit) :
    ttSend s = .next { s with
      data := segRead s.curSpace s.cursor s
      cursor := s.cursor + 1
      cmd := 0x04
      flags := flagsWord false (flagStopp s.flags)
      busLog := s.busLog ++ [(.ack, segRead s.curSpace s.cursor s)] } := by
  rw [ttSend, if_pos h, atCursor_of_lt_limit hw h, issue_of_ne_stop (c := .ack) nofun]
  rfl

/-- With no byte left 0xFF is sent with NACK (R71, R105). -/
theorem ttSend_exhausted {s : State} (h : s.limit ≤ s.cursor) :
    ttSend s = .next { s with
      data := 0xFF
      cmd := 0x05
      flags := flagsWord false (flagStopp s.flags)
      busLog := s.busLog ++ [(.nack, 0xFF)] } := by
  rw [ttSend, if_neg (by omega), issue_of_ne_stop (c := .nack) nofun]
  rfl

/-- Over an empty READ slot the walk starts at its end (R104). -/
theorem ttSelect_empty {s : State} (h : s.readSlot.len = 0) : ttSelect s = { s with
    role := .targetTransmit
    curSpace := .mem
    cursor := s.readSlot.base
    limit := s.readSlot.base
    transferredCount := 0
    lifecycle := .active } := by
  simp [ttSelect, selectTarget, walkSegment, h]

/-- Both selections for a read take TT_SELECT and then TT_SEND (R107, R108). -/
theorem exec_ttSelect {i : Instr} (hi : i ∈ [Instr.evTtAddrAck, .evTtArbLostAddrAck]) (s : State) :
    exec i s = ttSend (ttSelect s) := by
  simp only [List.mem_cons, List.not_mem_nil, or_false] at hi
  rcases hi with rfl | rfl <;> rfl

/-- Settles O36: TT_SEND from the walk over the READ slot, whose first byte is left exactly when the slot is
not empty. -/
theorem transmitSelectionSendsTheFirstByte : Obligations.TransmitSelectionSendsTheFirstByte := by
  unfold Obligations.TransmitSelectionSendsTheFirstByte
  intro s i hi hI
  obtain ⟨hread, -⟩ := slotsOk_of_inv hI
  rw [exec_ttSelect hi]
  refine ⟨fun hlen => ?_, fun hempty => ?_⟩
  · have hselected : Inv (ttSelect s) := inv_selectTarget .targetTransmit hread hI
    exact ttSend_room (walkOk_of_inv hselected) (Nat.lt_add_of_pos_right hlen)
  · rw [ttSelect_empty hempty]
    exact ttSend_exhausted (Nat.le_refl s.readSlot.base)

/-- Settles O37: the event is TT_SEND. -/
theorem transmitAckSendsTheNextTargetByte : Obligations.TransmitAckSendsTheNextTargetByte := by
  unfold Obligations.TransmitAckSendsTheNextTargetByte
  exact fun s hI => ⟨ttSend_room (walkOk_of_inv hI), ttSend_exhausted⟩

/-- Both ends of a target-transmit take TT_FINISH (R110, R111). -/
theorem exec_ttFinish {i : Instr} (hi : i ∈ [Instr.evTtDataNack, .evTtLastData]) (s : State) :
    exec i s = .next (ttFinish s) := by
  simp only [List.mem_cons, List.not_mem_nil, or_false] at hi
  rcases hi with rfl | rfl <;> rfl

/-- Settles O38: the command is ACK, which keeps STOPP. -/
theorem targetTransmitEndsIdle : Obligations.TargetTransmitEndsIdle := by
  unfold Obligations.TargetTransmitEndsIdle
  intro s i hi
  rw [exec_ttFinish hi, ttFinish, issue_of_ne_stop (c := .ack) nofun]
  rfl

/-! ## The selection for a write (R112, R114 to R117) -/

/-- The four selections for a write take TR_SELECT (R114 to R117). -/
theorem exec_trSelect {i : Instr}
    (hi : i ∈ [Instr.evTrAddrAck, .evTrArbLostAddrAck, .evTrGcallAck, .evTrArbLostGcallAck])
    (s : State) : exec i s = .next (trSelect s) := by
  simp only [List.mem_cons, List.not_mem_nil, or_false] at hi
  rcases hi with rfl | rfl | rfl | rfl <;> rfl

/-- Settles O39: the command is ACK, issued from the walk over the WRITE slot. -/
theorem receiveSelectionLatchesTheWriteSlot : Obligations.ReceiveSelectionLatchesTheWriteSlot := by
  unfold Obligations.ReceiveSelectionLatchesTheWriteSlot
  intro s i hi
  rw [exec_trSelect hi, trSelect, issue_of_ne_stop (c := .ack) nofun]
  rfl

/-! ## The unrecognized codes (R127) -/

/-- The five unrecognized codes issue IDLE. -/
theorem exec_unrecognized {i : Instr}
    (hi : i ∈ [Instr.evUnrecognizedD0, .evUnrecognizedD8, .evUnrecognizedE0, .evUnrecognizedE8,
      .evUnrecognizedF0]) (s : State) : exec i s = .next (issue .idle s) := by
  simp only [List.mem_cons, List.not_mem_nil, or_false] at hi
  rcases hi with rfl | rfl | rfl | rfl | rfl <;> rfl

/-- Settles O42: the command is IDLE, which keeps STOPP. -/
theorem unrecognizedCodesOnlyIssueIdle : Obligations.UnrecognizedCodesOnlyIssueIdle := by
  unfold Obligations.UnrecognizedCodesOnlyIssueIdle
  intro s i hi
  rw [exec_unrecognized hi, issue_of_ne_stop (c := .idle) nofun]
  rfl

end Sys2Proof.Machine
end

section
/-!
PROOFS. The statements of spec/44_host_operations.md: configuring and disabling the engine, the request over a
vector and over a header, the slots and the delivery of a notification.
-/

namespace Sys2Proof.Machine

/-! ## `begin` (R64, R128) -/

/-- The three rejections of `begin` (R128). -/
theorem beginRefused_iff (notify : Recipient) (a : Byte) (s : State) :
    beginRefused notify a s = true ↔
      s.lifecycle = .active ∨ (a ≠ 0 ∧ notify = Recipient.null) ∨ 127 < a.toNat := by
  simp only [beginRefused, Bool.or_eq_true, Bool.and_eq_true, decide_eq_true_eq, or_assoc]

/-- A rejected `begin` writes nothing but its record (R128). -/
theorem execBegin_refused {notify : Recipient} {a : Byte} {s : State} (h : beginRefused notify a s = true) :
    execBegin notify a s = .next (hostReturn (.result false) s) :=
  if_pos h

/-- An accepted `begin` registers the host, configures the engine and issues IDLE (R128). -/
theorem execBegin_accepted {notify : Recipient} {a : Byte} {s : State}
    (h : ¬ beginRefused notify a s = true) :
    execBegin notify a s = .next (hostReturn (.result true)
      (issue .idle (configure a { s with notifyTarget := notify, ownAddress := a.setWidth 7 }))) :=
  if_neg h

/-- The filter value of an address byte is the byte moved up by one, whatever its top bit (R64). -/
theorem filterValue_setWidth (a : Byte) : filterValue (a.setWidth 7) = a <<< 1 := by
  revert a
  decide

/-- Settles O43: the three rejections are `beginRefused`, and IDLE keeps STOPP in both modes. -/
theorem beginConfiguresOrReturnsFalse : Obligations.BeginConfiguresOrReturnsFalse := by
  unfold Obligations.BeginConfiguresOrReturnsFalse
  intro s notify a
  have hrefused := beginRefused_iff notify a s
  refine ⟨fun h => execBegin_refused (hrefused.mpr h), fun hl ha => ?_, fun hl ha hn hle => ?_⟩
  · subst ha
    have haccepted : ¬ beginRefused notify 0 s = true := by rw [hrefused]; simp [hl]
    change execBegin notify 0 s = _
    rw [execBegin_accepted haccepted, issue_of_ne_stop (c := .idle) nofun]
    rfl
  · have haccepted : ¬ beginRefused notify a s = true := by rw [hrefused]; simp [hl, hn, hle]
    change execBegin notify a s = _
    rw [execBegin_accepted haccepted, issue_of_ne_stop (c := .idle) nofun, configure, if_neg ha,
      filterValue_setWidth, BitVec.setWidth_eq_extractLsb' (by decide)]
    rfl

/-! ## `end` (R129) -/

/-- Outside a transaction `end` disables the engine and clears a pending event (R129). -/
theorem execEndOp_inactive {s : State} (h : s.lifecycle ≠ .active) :
    execEndOp s = .next { s with
      notifyTarget := Recipient.null
      ctrl := 0x00
      flags := flagsWord false (flagStopp s.flags)
      hostLog := s.hostLog ++ [.none] } :=
  if_neg h

/-- With the engine disabled already, `end` only adds its record (R129). -/
theorem execEndOp_disabled {s : State} (hl : s.lifecycle ≠ .active)
    (hnotify : s.notifyTarget = Recipient.null) (hctrl : s.ctrl = 0x00)
    (hflags : flagsWord false (flagStopp s.flags) = s.flags) :
    execEndOp s = .next { s with hostLog := s.hostLog ++ [.none] } := by
  rw [execEndOp_inactive hl, hflags, ← hnotify, ← hctrl]

/-- Settles O44: the first `end` leaves the notify target null, CTRL 0 and INTF clear. -/
theorem endDisablesTheEngine : Obligations.EndDisablesTheEngine := by
  unfold Obligations.EndDisablesTheEngine
  intro s
  refine ⟨execEndOp_inactive, fun h => if_pos h, fun t hl hend => ?_⟩
  obtain rfl := Host.Outcome.next.inj ((execEndOp_inactive hl).symm.trans hend)
  exact execEndOp_disabled hl rfl rfl (by rw [flagStopp_flagsWord])

/-! ## `request` (R29, R130, R131) -/

/-- What an accepted request over a vector that begins with `e` writes (R131). -/
theorem accept_cons (ab : Byte) (e : Segment) (es : List Segment) (s : State) :
    accept ab (e :: es) s = { s with
      iov := e :: es ++ List.replicate (s.params.n - es.length) Segment.sentinel
      segmentIndex := 0
      curSpace := e.space
      cursor := e.base
      limit := e.base + e.len
      transferredCount := 0
      address := ab
      role := if directionBit ab then .controllerReceive else .controllerTransmit
      lifecycle := .active
      cmd := 0x01
      flags := flagsWord false (flagStopp s.flags)
      busLog := s.busLog ++ [(.start, s.data)] } := by
  rw [accept, fillVec, List.length_cons, Nat.add_sub_add_right]
  rfl

/-- Settles O45: the statement's contract is `vecContract`, clause by clause. -/
theorem requestStartsOrReturnsFalseOrFaults : Obligations.RequestStartsOrReturnsFalseOrFaults := by
  unfold Obligations.RequestStartsOrReturnsFalseOrFaults
  intro s ab e es _
  have hexec : exec (.request ab (e :: es)) s = .next (requestVec ab (e :: es) s) := rfl
  rw [hexec, ← vecContract_iff]
  refine ⟨fun h => by rw [requestVec_refused _ _ h]; rfl, fun hl he => ?_⟩
  rw [requestVec_admitted _ _ hl he]
  refine ⟨fun h => ?_, fun h => ?_⟩
  · rw [if_pos h, accept_cons]
    rfl
  · rw [if_neg h]
    rfl

/-! ## A request with a header (R66, R133, R134) -/

/-- What a request with a header of `k` bytes answers, by the two bounds of its contract: `accepted` is the
state that its arm accepts in (R133, R134). -/
theorem headerTransfer_outcomes {i : Instr} {s accepted : State} {k buf size : Nat}
    (hexec : exec i s = .next (requestOr (headerContract s.params k buf size) accepted s)) :
    (s.lifecycle = .active ∨ ctrlEn s.ctrl = false → exec i s = .next (hostReturn (.result false) s)) ∧
    (s.lifecycle ≠ .active → ctrlEn s.ctrl = true →
      (buf + size ≤ 2 ^ s.params.aw ∧ k + size ≤ s.params.countMax →
        exec i s = .next (hostReturn (.result true) accepted)) ∧
      (2 ^ s.params.aw < buf + size ∨ s.params.countMax < k + size →
        exec i s = .next (raiseFault .hostContractVec s))) := by
  have hcontract := headerContract_iff s.params k buf size
  rw [hexec, requestOr]
  refine ⟨fun h => by rw [if_pos ((requestRefused_iff s).mpr h)], fun hl he => ?_⟩
  rw [if_neg (by simp [requestRefused_iff, hl, he])]
  exact ⟨fun h => by rw [if_pos (hcontract.mpr h)],
    fun h => by rw [if_neg (by rw [hcontract]; omega)]⟩

/-- Settles O47: the header is latched in the accepting state only. -/
theorem byteHeaderIsLatchedOnAcceptance : Obligations.ByteHeaderIsLatchedOnAcceptance := by
  unfold Obligations.ByteHeaderIsLatchedOnAcceptance
  intro s a h buf size _
  have hexec : exec (.writeRequestH8 a h buf size) s = .next (requestOr (headerContract s.params 1 buf size)
    (accept (addressByte a false) (headerVec 1 buf size) { s with hdr0 := h }) s) := rfl
  obtain ⟨hrefused, hadmitted⟩ := headerTransfer_outcomes hexec
  refine ⟨hrefused, fun hl he => ?_⟩
  obtain ⟨haccepted, hfault⟩ := hadmitted hl he
  refine ⟨fun hin => ?_, hfault⟩
  rw [haccepted hin, headerVec, accept_cons, directionBit_addressByte]
  rfl

/-- Settles O48: the two bytes latched in the accepting state are the halves of the header. -/
theorem wordHeaderIsLatchedHighByteFirst : Obligations.WordHeaderIsLatchedHighByteFirst := by
  unfold Obligations.WordHeaderIsLatchedHighByteFirst
  intro s a hi lo buf size _
  have hhigh : (hi ++ lo).extractLsb' 8 8 = hi := BitVec.extractLsb'_append_eq_left
  have hlow : (hi ++ lo).extractLsb' 0 8 = lo := BitVec.extractLsb'_append_eq_right
  have hexec : exec (.writeRequestH16 a (hi ++ lo) buf size) s =
      .next (requestOr (headerContract s.params 2 buf size)
        (accept (addressByte a false) (headerVec 2 buf size) { s with hdr0 := hi, hdr1 := lo }) s) := by
    change execWriteRequestH16 a (hi ++ lo) buf size s = _
    rw [execWriteRequestH16, hhigh, hlow]
  obtain ⟨hrefused, hadmitted⟩ := headerTransfer_outcomes hexec
  refine ⟨hrefused, fun hl he => ?_⟩
  obtain ⟨haccepted, hfault⟩ := hadmitted hl he
  refine ⟨fun hin => ?_, hfault⟩
  rw [haccepted hin, headerVec, accept_cons, directionBit_addressByte]
  rfl

/-! ## The slots and the notification (R137 to R141) -/

/-- The slot contract, clause by clause (R137). -/
theorem slotContract_iff (p : Params) (buf size : Nat) :
    slotContract p buf size = true ↔ buf + size ≤ 2 ^ p.aw ∧ size ≤ p.countMax := by
  simp only [slotContract, Bool.and_eq_true, decide_eq_true_eq]

/-- Settles O50: both operations branch on `slotContract` alone. -/
theorem slotsAreInstalledOrFault : Obligations.SlotsAreInstalledOrFault := by
  unfold Obligations.SlotsAreInstalledOrFault
  intro s buf size
  refine ⟨fun h => ?_, fun h => ?_⟩
  · have hin : slotContract s.params buf size = true := (slotContract_iff _ _ _).mpr h
    exact ⟨if_pos hin, if_pos hin⟩
  · have hout : ¬ slotContract s.params buf size = true := by rw [slotContract_iff]; omega
    exact ⟨if_neg hout, if_neg hout⟩

/-- Settles O51: the delivery's record comes first, then the result. -/
theorem dispatchDeliversAndRearms : Obligations.DispatchDeliversAndRearms := by
  unfold Obligations.DispatchDeliversAndRearms
  intro s
  refine ⟨fun hfull => ?_, fun hempty => if_neg (by simp [hempty])⟩
  change execDispatch s = _
  rw [execDispatch, if_pos hfull, List.append_cons]
  rfl

end Sys2Proof.Machine
end

section
/-!
PROOFS. The statement of spec/70_reset_and_hazards.md: the state after reset.
-/

namespace Sys2Proof.Machine

/-! ## The state after reset (R159) -/

/-- The engine is off after reset: CTRL.EN is 0. -/
theorem ctrlEn_resetWith (p : Params) : ctrlEn (State.resetWith p).ctrl = false := by
  simp [ctrlEn, State.resetWith]

/-- Settles O1: the values are those `State.resetWith` writes; the two moves are disabled by the rule for an
engine that is off (R81), in phase READY. -/
theorem resetHoldsTheStatedValues : Obligations.ResetHoldsTheStatedValues := by
  unfold Obligations.ResetHoldsTheStatedValues
  refine ⟨rfl, fun p => ?_⟩
  obtain ⟨hevent, hsequencer, -⟩ := engineOffRaisesNoEvent (State.resetWith p) (ctrlEn_resetWith p)
  exact ⟨rfl, rfl, rfl, rfl, rfl, rfl, rfl, rfl, rfl, rfl, rfl, rfl, rfl, rfl, rfl, rfl, rfl, rfl, rfl, rfl,
    rfl, rfl, rfl, rfl, rfl, rfl, rfl, rfl, rfl, hsequencer rfl, hevent⟩

end Sys2Proof.Machine
end
